-- ==== Sys2Proof/Word.lean ====
section
/-! DEFINITION. The two word widths of the 8085 (spec 00_scope.md R5, R6). -/

namespace Sys2Proof

/-- An 8-bit value, the spec's `u8`: a register, a memory location, an operand byte, a port number (R5). -/
abbrev Byte := BitVec 8

/-- A 16-bit value, the spec's `u16`: an address, a register pair, SP, PC (R5). Its `+` and `-` are the
`+16` and `-16` of R6: they wrap mod 65536 (R54). -/
abbrev Word := BitVec 16

end Sys2Proof
end

