-- ==== Sys2Proof/Syntax.lean ====
section
/-! DEFINITION. The abstract syntax of the 8085's instructions: one constructor of `Instr` for each row of
spec/opcode_table.json, in the table's order. -/

namespace Sys2Proof

/-- The seven 8-bit general registers (10_state.md R20). -/
inductive Reg
  | b | c | d | e | h | l | a
  deriving DecidableEq, Repr

/-- An 8-bit operand "R / M": a register, or M, the memory byte at the address in HL (00_scope.md R7, R14). -/
inductive Operand
  | reg (r : Reg)
  | m
  deriving DecidableEq, Repr

/-- A 16-bit operand: the pair BC, DE or HL, or SP (10_state.md R21). -/
inductive Pair
  | bc | de | hl | sp
  deriving DecidableEq, Repr

/-- The eight conditions of the conditional jumps, calls and returns (42_branching.md R170). -/
inductive Cond
  | nz | z | nc | c | po | pe | p | m
  deriving DecidableEq, Repr

/-- The instructions, one constructor per row of spec/opcode_table.json. 16-bit operands are the assembled values
(30_encoding.md R86). Which pairs an instruction accepts is checked by `Instr.wellFormed`. -/
inductive Instr
  -- Data transfer (40_data_transfer.md)
  /-- MOV Rd, Rs (R110). -/
  | movRR (dst src : Reg)
  /-- MOV Rd, M (R111). -/
  | movRM (dst : Reg)
  /-- MOV M, Rs (R112). -/
  | movMR (src : Reg)
  /-- MVI Rd, data (R113). -/
  | mviR (dst : Reg) (data : Byte)
  /-- MVI M, data (R114). -/
  | mviM (data : Byte)
  /-- LDA a16 (R115). -/
  | lda (addr : Word)
  /-- LDAX B or D (R116). -/
  | ldax (p : Pair)
  /-- LXI rp, d16 (R117). -/
  | lxi (p : Pair) (data : Word)
  /-- LHLD a16 (R118). -/
  | lhld (addr : Word)
  /-- STA a16 (R119). -/
  | sta (addr : Word)
  /-- STAX B or D (R120). -/
  | stax (p : Pair)
  /-- SHLD a16 (R121). -/
  | shld (addr : Word)
  /-- XCHG (R122). -/
  | xchg
  /-- SPHL (R123). -/
  | sphl
  /-- XTHL (R124). -/
  | xthl
  /-- PUSH B, D or H (R125). -/
  | pushRp (p : Pair)
  /-- PUSH A (standard syntax PUSH PSW) (R126). -/
  | pushA
  /-- POP B, D or H (R127). -/
  | popRp (p : Pair)
  /-- POP A (standard syntax POP PSW) (R128). -/
  | popA
  /-- OUT port (R129). -/
  | outPort (port : Byte)
  /-- IN port (R130). -/
  | inPort (port : Byte)
  -- Arithmetic (41_arithmetic.md)
  /-- ADD R or M (R142). -/
  | add (src : Operand)
  /-- ADC R or M (R143). -/
  | adc (src : Operand)
  /-- SUB R or M (R147). -/
  | sub (src : Operand)
  /-- SBB R or M (R148). -/
  | sbb (src : Operand)
  /-- ADI data (R144). -/
  | adi (data : Byte)
  /-- ACI data (R145). -/
  | aci (data : Byte)
  /-- SUI data (R149). -/
  | sui (data : Byte)
  /-- SBI data (R150). -/
  | sbi (data : Byte)
  /-- DAD rp (R146). -/
  | dad (p : Pair)
  /-- INR R or M (R151). -/
  | inr (dst : Operand)
  /-- INX rp (R152). -/
  | inx (p : Pair)
  /-- DCR R or M (R153). -/
  | dcr (dst : Operand)
  /-- DCX rp (R154). -/
  | dcx (p : Pair)
  /-- DAA (R155). -/
  | daa
  -- Branching (42_branching.md)
  /-- JMP a16 (R171). -/
  | jmp (addr : Word)
  /-- JC a16 (R172). -/
  | jc (addr : Word)
  /-- JNC a16 (R173). -/
  | jnc (addr : Word)
  /-- JP a16 (R174). -/
  | jp (addr : Word)
  /-- JM a16 (R175). -/
  | jm (addr : Word)
  /-- JZ a16 (R176). -/
  | jz (addr : Word)
  /-- JNZ a16 (R177). -/
  | jnz (addr : Word)
  /-- JPE a16 (R178). -/
  | jpe (addr : Word)
  /-- JPO a16 (R179). -/
  | jpo (addr : Word)
  /-- CALL a16 (R180). -/
  | call (addr : Word)
  /-- CC a16 (R181). -/
  | cc (addr : Word)
  /-- CNC a16 (R182). -/
  | cnc (addr : Word)
  /-- CP a16 (R183). -/
  | cp (addr : Word)
  /-- CM a16 (R184). -/
  | cm (addr : Word)
  /-- CZ a16 (R185). -/
  | cz (addr : Word)
  /-- CNZ a16 (R186). -/
  | cnz (addr : Word)
  /-- CPE a16 (R187). -/
  | cpe (addr : Word)
  /-- CPO a16 (R188). -/
  | cpo (addr : Word)
  /-- RET (R189). -/
  | ret
  /-- RC (R190). -/
  | rc
  /-- RNC (R191). -/
  | rnc
  /-- RP (R192). -/
  | rp
  /-- RM (R193). -/
  | rm
  /-- RZ (R194). -/
  | rz
  /-- RNZ (R195). -/
  | rnz
  /-- RPE (R196). -/
  | rpe
  /-- RPO (R197). -/
  | rpo
  /-- PCHL (R198). -/
  | pchl
  /-- RST n (R199). -/
  | rst (n : BitVec 3)
  -- Logical (43_logical.md)
  /-- ANA R or M (R212). -/
  | ana (src : Operand)
  /-- XRA R or M (R214). -/
  | xra (src : Operand)
  /-- ORA R or M (R216). -/
  | ora (src : Operand)
  /-- CMP R or M (R210). -/
  | cmp (src : Operand)
  /-- ANI data (R213). -/
  | ani (data : Byte)
  /-- XRI data (R215). -/
  | xri (data : Byte)
  /-- ORI data (R217). -/
  | ori (data : Byte)
  /-- CPI data (R211). -/
  | cpi (data : Byte)
  /-- RLC (R218). -/
  | rlc
  /-- RRC (R219). -/
  | rrc
  /-- RAL (R220). -/
  | ral
  /-- RAR (R221). -/
  | rar
  /-- CMA (R222). -/
  | cma
  /-- CMC (R223). -/
  | cmc
  /-- STC (R224). -/
  | stc
  -- Control (44_control.md)
  /-- NOP (R240). -/
  | nop
  /-- HLT (R241). -/
  | hlt
  /-- DI (R242). -/
  | di
  /-- EI (R243). -/
  | ei
  /-- RIM (R244). -/
  | rim
  /-- SIM (R245). -/
  | sim
  -- The ten bytes no instruction is assigned to (30_encoding.md)
  /-- the undefined byte 08H (R88). -/
  | undefined08
  /-- the undefined byte 10H (R88). -/
  | undefined10
  /-- the undefined byte 18H (R88). -/
  | undefined18
  /-- the undefined byte 28H (R88). -/
  | undefined28
  /-- the undefined byte 38H (R88). -/
  | undefined38
  /-- the undefined byte CBH (R88). -/
  | undefinedCB
  /-- the undefined byte D9H (R88). -/
  | undefinedD9
  /-- the undefined byte DDH (R88). -/
  | undefinedDD
  /-- the undefined byte EDH (R88). -/
  | undefinedED
  /-- the undefined byte FDH (R88). -/
  | undefinedFD
  deriving DecidableEq, Repr

end Sys2Proof
end

