-- ==== Sys2Proof/Config.lean ====
section
/-! DEFINITION. The implementation and environment parameters of 00_scope.md R5: the platform's memory map, the inputs the
environment presents, the record of what the processor did that the environment can see, and the free values.

Every free value is an opaque constant: it has no body, so nothing is provable of its value, and a statement about it
holds whatever it is. Each is applied to the `History` at the moment it is drawn, so that two draws at different
boundaries, or after different events, need not agree. -/

namespace Sys2Proof

/-! ### The platform's memory map (20_memory.md R50, D30) -/

/-- What the platform has at an address (R50, D30): read-write memory; read-only memory, where a write has no effect;
nothing, where a read returns a value no rule fixes and a write has no effect (U5); a memory-mapped device. -/
inductive MemKind
  | ram | rom | unpopulated | device
  deriving DecidableEq, Repr

/-- One region of the map: the `size` addresses that follow `base`, counted mod 65536 (R54). -/
structure Region where
  base : Word
  size : Nat
  kind : MemKind
  deriving DecidableEq, Repr

/-! ### What the environment presents (60_exceptions.md R264) -/

/-- The record `irqInputs(k)` of R264: the input levels at a boundary and the rising edges since the one before. -/
structure IrqInputs where
  trapLevel : Bool
  trapRise  : Bool
  r75Rise   : Bool
  r65Level  : Bool
  r55Level  : Bool
  intrLevel : Bool
  deriving DecidableEq, Repr, Inhabited

/-- No line high and no edge. -/
def IrqInputs.quiet : IrqInputs := ⟨false, false, false, false, false, false⟩

/-- The bytes external hardware places on the bus when INTR is acknowledged, in order; an instruction uses as many as
its length (R262). -/
structure IntaBytes where
  byte1 : Byte
  byte2 : Byte
  byte3 : Byte
  deriving DecidableEq, Repr, Inhabited

/-- Everything a schedule says the environment presents at one boundary and during the step that follows. What it does
not name (`none`, a port not in `ports`) stays a free value. `reset` is the system reset event of
70_reset_and_hazards.md R300 (U16). -/
structure EnvRecord where
  irq   : IrqInputs
  sid   : Option Bool
  ports : List (Byte × Byte)
  inta  : Option IntaBytes
  reset : Bool
  deriving DecidableEq, Repr

/-- A record that presents these interrupt lines and names nothing else. -/
def EnvRecord.ofIrq (q : IrqInputs) : EnvRecord := ⟨q, none, [], none, false⟩

/-- A boundary at which nothing is requested. -/
def EnvRecord.quiet : EnvRecord := EnvRecord.ofIrq IrqInputs.quiet

/-! ### What the environment has seen (20_memory.md R58; log 14) -/

/-- An event the environment can see, recorded in program order: port transfers (R58), accesses to addresses that hold no
memory (R50), loads of the serial output (10_state.md R31), and acknowledges of INTR (R262). -/
inductive Event
  | portRead (port value : Byte)
  | portWrite (port value : Byte)
  | busRead (addr : Word) (value : Byte)
  | busWrite (addr : Word) (value : Byte)
  | serialOut (bit : Bool)
  | intAck (bytes : IntaBytes)
  deriving DecidableEq, Repr

/-- What a free value may depend on: the number of the boundary and all events so far (the "history" of R5). -/
structure History where
  boundary : Nat
  events   : List Event
  deriving DecidableEq, Repr

/-! ### The free values -/

namespace Config

/-- The interrupt inputs at a boundary that no schedule names: the parameter `irqInputs` (R5, R264, U13). -/
opaque irqInputs (h : History) : IrqInputs

/-- The byte an input port presents: the oracle `ioRead` (R5, R58, U6). -/
opaque ioRead (port : Byte) (h : History) : Byte

/-- The serial input bit when RIM samples it: the oracle `sidInput` (R5, R31, U7). -/
opaque sidInput (h : History) : Bool

/-- The bytes inserted when INTR is acknowledged: the oracle `intaSupply` (R5, R262). -/
opaque intaSupply (h : History) : IntaBytes

/-- The spare bits u5, u3, u1 (bits 2, 1, 0) of the byte PUSH A writes: `pswSpareBits` (R5, R27, U3). -/
opaque pswSpareBits (h : History) : BitVec 3

/-- The byte a read of an unpopulated address returns (R50, U5). -/
opaque unpopulatedRead (addr : Word) (h : History) : Byte

/-- The byte a memory-mapped device presents (R50, D30). -/
opaque deviceRead (addr : Word) (h : History) : Byte

/-- A general register after a reset event: `resetRegs` (R5, R38, R300, U2). -/
opaque resetRegister (r : Reg) (h : History) : Byte

/-- SP after a reset event: `resetRegs` (R5, R38, R300, U2). -/
opaque resetSP (h : History) : Word

/-- The flags S, Z, AC, P, CY (bits 4 to 0) after a reset event: `resetRegs` (R5, R38, R300, U2). -/
opaque resetFlags (h : History) : BitVec 5

end Config

end Sys2Proof
end

