-- ==== Sys2Proof/Machine/State.lean ====
section
/-! DEFINITION. The state of the machine (10_state.md), the two reasons a step can stop, and the state after reset (R38, R300).
Everything is plain data. -/

namespace Sys2Proof.Machine

/-- The seven general registers (10_state.md R20). The pairs BC, DE, HL are views of them (R21). -/
structure Registers where
  a : Byte
  b : Byte
  c : Byte
  d : Byte
  e : Byte
  h : Byte
  l : Byte
  deriving DecidableEq, Repr

/-- The five flags S, Z, AC, P, CY (R25). -/
structure Flags where
  s  : Bool
  z  : Bool
  ac : Bool
  p  : Bool
  cy : Bool
  deriving DecidableEq, Repr

/-- The control state of R28 to R34, under the spec's names: IE, M7_5, M6_5, M5_5, I7_5, TRAP_FF, SOD, HALTED,
EI_SHADOW, TRAP_IE_SAVED, TRAP_RIM_ARMED. -/
structure Control where
  ie           : Bool
  m75          : Bool
  m65          : Bool
  m55          : Bool
  i75          : Bool
  trapFF       : Bool
  sod          : Bool
  halted       : Bool
  eiShadow     : Bool
  trapIeSaved  : Bool
  trapRimArmed : Bool
  deriving DecidableEq, Repr

/-- The environment's side of the machine, which no instruction changes: the memory map (R50), the record presented at
the current boundary (`pins`), the records known to come (`schedule`, nearest first; beyond it the inputs are free), and
the number of the boundary (R264). All but `memMap` are the model's own fields (log 9, log 23). -/
structure Environment where
  memMap   : List Region
  pins     : EnvRecord
  schedule : List EnvRecord
  boundary : Nat
  deriving DecidableEq, Repr

/-- Memory contents, RAM and ROM alike: (address, byte) cells in one canonical form, addresses strictly rising and no byte
equal to what an unlisted address reads as (`Memory.wf` in Machine/Ops.lean). -/
abbrev Memory := List Host.Cell

/-- The state of the 8085: everything 10_state.md gives it, and the environment's side. `events` is the record of R58,
oldest first (log 14). -/
structure State where
  regs   : Registers
  sp     : Word
  pc     : Word
  flags  : Flags
  ctl    : Control
  mem    : Memory
  events : List Event
  env    : Environment
  deriving DecidableEq, Repr

/-- Why a step stops with a fault. -/
inductive Fault
  /-- One of the ten unassigned opcode bytes was executed: the byte and the address it was fetched from (30_encoding.md
  R88, 60_exceptions.md R260). Raised by the meanings of the `undefined…` rows. Safe: the model stops where a real part
  goes on in a way the spec leaves out. -/
  | undefinedOpcode (op : Byte) (addr : Word)
  deriving DecidableEq, Repr

/-- Why a step is refused. -/
inductive Refusal
  /-- An instruction without a meaning yet. Raised by a refused arm of `exec` only. Safe: no step follows. -/
  | notModelled (mnemonic : String)
  /-- External hardware answered the acknowledge of INTR with something other than RST n or CALL a16 (60_exceptions.md
  R262, R268, U8). Raised by interrupt entry for INTR. Safe: no step follows. -/
  | intaInstruction (bytes : IntaBytes)
  deriving DecidableEq, Repr

/-- The state after a system reset with nothing placed in memory (R38, R300). PC, IE, HALTED, the masks, the latches,
SOD, EI_SHADOW and TRAP_RIM_ARMED are the spec's values. The registers and SP are 0 and the flags are 0 (DESIGN CHOICE,
unsafe: log 1, 2, 3; the spec says "unspecified"); TRAP_IE_SAVED is 0 (DESIGN CHOICE, log 4). No region is mapped, so
every address is RAM (DESIGN CHOICE, log 6); nothing is scheduled (log 9). -/
def State.reset : State where
  regs := { a := 0, b := 0, c := 0, d := 0, e := 0, h := 0, l := 0 }
  sp := 0
  pc := 0x0000#16
  flags := { s := false, z := false, ac := false, p := false, cy := false }
  ctl :=
    { ie := false, m75 := true, m65 := true, m55 := true, i75 := false, trapFF := false, sod := false,
      halted := false, eiShadow := false, trapIeSaved := false, trapRimArmed := false }
  mem := []
  events := []
  env := { memMap := [], pins := EnvRecord.quiet, schedule := [], boundary := 0 }

end Sys2Proof.Machine
end

