-- ==== Sys2Proof/Machine/Flags.lean ====
section
/-! DEFINITION. Every result-and-flags computation of the spec: 00_scope.md R10, 10_state.md R25 to R27, R35,
41_arithmetic.md R140, R141, R146, R151, R153, R155, 42_branching.md R170, 43_logical.md R212 to R221. Sums are taken on
natural numbers and narrowed at the end (R6). -/

namespace Sys2Proof.Machine

/-! ### Bytes made of bits -/

/-- A byte from its bits, D7 first (R6). -/
def byteOfBits (b7 b6 b5 b4 b3 b2 b1 b0 : Bool) : Byte :=
  BitVec.ofBool b7 ++ BitVec.ofBool b6 ++ BitVec.ofBool b5 ++ BitVec.ofBool b4 ++
    BitVec.ofBool b3 ++ BitVec.ofBool b2 ++ BitVec.ofBool b1 ++ BitVec.ofBool b0

/-- The flag byte PUSH A writes, with the spare bits u5, u3, u1 in bits 2, 1, 0 of `spare` (R27, R126). -/
def Flags.toByte (spare : BitVec 3) (f : Flags) : Byte :=
  byteOfBits f.s f.z (spare.getLsbD 2) f.ac (spare.getLsbD 1) f.p (spare.getLsbD 0) f.cy

/-- The flags POP A loads from a byte; bits 5, 3, 1 are ignored (R27, R128). -/
def Flags.ofByte (v : Byte) : Flags :=
  { s := v.getLsbD 7, z := v.getLsbD 6, ac := v.getLsbD 4, p := v.getLsbD 2, cy := v.getLsbD 0 }

/-! ### S, Z and P -/

/-- The number of 1 bits of a byte. -/
def onesCount (v : Byte) : Nat :=
  (v.getLsbD 0).toNat + (v.getLsbD 1).toNat + (v.getLsbD 2).toNat + (v.getLsbD 3).toNat +
    (v.getLsbD 4).toNat + (v.getLsbD 5).toNat + (v.getLsbD 6).toNat + (v.getLsbD 7).toNat

/-- `parity_even` of R10. -/
def parityEven (v : Byte) : Bool := onesCount v % 2 == 0

/-- `set_SZP(r)` of R10: S, Z and P from a result, AC and CY as they were. -/
def Flags.setSZP (r : Byte) (f : Flags) : Flags :=
  { f with s := r.getLsbD 7, z := r == 0, p := parityEven r }

/-! ### Addition, subtraction, increment, decrement -/

/-- `add8` of R140: the sum and all five flags. -/
def add8 (x y : Byte) (cin : Bool) : Byte × Flags :=
  let sum := x.toNat + y.toNat + cin.toNat
  let r : Byte := BitVec.ofNat 8 sum
  (r,
    { s := r.getLsbD 7
      z := r == 0
      ac := decide (x.toNat % 16 + y.toNat % 16 + cin.toNat > 15)
      p := parityEven r
      cy := decide (sum > 255) })

/-- `sub8` of R141: the difference and all five flags. CY is a borrow; AC is the carry out of bit 3 of
`x + ~y + (1 - bin)`, the default of U11 (log 25). -/
def sub8 (x y : Byte) (bin : Bool) : Byte × Flags :=
  let r : Byte := BitVec.ofInt 8 ((x.toNat : Int) - (y.toNat : Int) - (bin.toNat : Int))
  (r,
    { s := r.getLsbD 7
      z := r == 0
      ac := decide (x.toNat % 16 + (~~~y).toNat % 16 + (1 - bin.toNat) > 15)
      p := parityEven r
      cy := decide (x.toNat < y.toNat + bin.toNat) })

/-- INR's result and flags: S, Z, P, AC written, CY kept (R151). -/
def inc8 (v : Byte) (f : Flags) : Byte × Flags :=
  let r : Byte := v + 1
  (r, { f.setSZP r with ac := decide (v.toNat % 16 = 15) })

/-- DCR's result and flags: S, Z, P, AC written, CY kept (R153). -/
def dec8 (v : Byte) (f : Flags) : Byte × Flags :=
  let r : Byte := v - 1
  (r, { f.setSZP r with ac := decide (v.toNat % 16 ≠ 0) })

/-- DAD's sum and the carry out of bit 15 (R146). -/
def add16 (x y : Word) : Word × Bool :=
  let sum := x.toNat + y.toNat
  (BitVec.ofNat 16 sum, decide (sum > 65535))

/-- DAA's result and flags (R155). -/
def decimalAdjust (x : Byte) (f : Flags) : Byte × Flags :=
  let lo := x.toNat % 16
  let hi := x.toNat / 16
  let adjLo : Bool := decide (lo > 9) || f.ac
  let adjHi : Bool := decide (hi > 9) || f.cy || (decide (hi ≥ 9) && decide (lo > 9))
  let c := (if adjLo then 0x06 else 0) + (if adjHi then 0x60 else 0)
  let r : Byte := BitVec.ofNat 8 (x.toNat + c)
  (r, { f.setSZP r with ac := adjLo && decide (lo + 6 > 15), cy := adjHi })

/-! ### Logic -/

/-- The flags after AND: S, Z, P from the result, CY reset, AC set (R212). -/
def andFlags (r : Byte) (f : Flags) : Flags := { f.setSZP r with cy := false, ac := true }

/-- The flags after OR and exclusive OR: S, Z, P from the result, CY and AC reset (R214, R216). -/
def orFlags (r : Byte) (f : Flags) : Flags := { f.setSZP r with cy := false, ac := false }

/-! ### Rotates: the byte and the new CY -/

/-- RLC: `A[6:0] ++ A[7]`, CY from bit 7 (R218). -/
def rotateLeft (x : Byte) : Byte × Bool := (x.extractLsb' 0 7 ++ x.extractLsb' 7 1, x.getLsbD 7)

/-- RRC: `A[0] ++ A[7:1]`, CY from bit 0 (R219). -/
def rotateRight (x : Byte) : Byte × Bool := (x.extractLsb' 0 1 ++ x.extractLsb' 1 7, x.getLsbD 0)

/-- RAL: `A[6:0] ++ CY`, CY from bit 7 (R220). -/
def rotateLeftThrough (x : Byte) (c : Bool) : Byte × Bool := (x.extractLsb' 0 7 ++ BitVec.ofBool c, x.getLsbD 7)

/-- RAR: `CY ++ A[7:1]`, CY from bit 0 (R221). -/
def rotateRightThrough (x : Byte) (c : Bool) : Byte × Bool := (BitVec.ofBool c ++ x.extractLsb' 1 7, x.getLsbD 0)

/-! ### Conditions -/

/-- `cond(ccc)` of R170. -/
def Cond.holds (f : Flags) : Cond → Bool
  | .nz => !f.z
  | .z => f.z
  | .nc => !f.cy
  | .c => f.cy
  | .po => !f.p
  | .pe => f.p
  | .p => !f.s
  | .m => f.s

end Sys2Proof.Machine
end

