-- ==== Sys2Proof/WellFormed.lean ====
section
/-! DEFINITION. Which terms of `Instr` are instructions of the machine: the operand restrictions of the opcode table
that the types of the constructors do not already make (30_encoding.md R82, 10_state.md R21). -/

namespace Sys2Proof

/-- LDAX and STAX accept the pairs B and D only (40_data_transfer.md R116, R120). -/
def Pair.isIndirect : Pair → Bool
  | .bc => true
  | .de => true
  | .hl => false
  | .sp => false

/-- PUSH and POP of a pair accept B, D and H; code 11 is A with the flags, a row of its own (R125, R127). -/
def Pair.isStackable : Pair → Bool
  | .bc => true
  | .de => true
  | .hl => true
  | .sp => false

/-- The operand check of each instruction: the pair restrictions of R82; every other operand value is legal (R89). -/
def Instr.wellFormed (i : Instr) : Bool :=
  match i with
  | .movRR _ _ => true
  | .movRM _ => true
  | .movMR _ => true
  | .mviR _ _ => true
  | .mviM _ => true
  | .lda _ => true
  | .ldax p => p.isIndirect
  | .lxi _ _ => true
  | .lhld _ => true
  | .sta _ => true
  | .stax p => p.isIndirect
  | .shld _ => true
  | .xchg => true
  | .sphl => true
  | .xthl => true
  | .pushRp p => p.isStackable
  | .pushA => true
  | .popRp p => p.isStackable
  | .popA => true
  | .outPort _ => true
  | .inPort _ => true
  | .add _ => true
  | .adc _ => true
  | .sub _ => true
  | .sbb _ => true
  | .adi _ => true
  | .aci _ => true
  | .sui _ => true
  | .sbi _ => true
  | .dad _ => true
  | .inr _ => true
  | .inx _ => true
  | .dcr _ => true
  | .dcx _ => true
  | .daa => true
  | .jmp _ => true
  | .jc _ => true
  | .jnc _ => true
  | .jp _ => true
  | .jm _ => true
  | .jz _ => true
  | .jnz _ => true
  | .jpe _ => true
  | .jpo _ => true
  | .call _ => true
  | .cc _ => true
  | .cnc _ => true
  | .cp _ => true
  | .cm _ => true
  | .cz _ => true
  | .cnz _ => true
  | .cpe _ => true
  | .cpo _ => true
  | .ret => true
  | .rc => true
  | .rnc => true
  | .rp => true
  | .rm => true
  | .rz => true
  | .rnz => true
  | .rpe => true
  | .rpo => true
  | .pchl => true
  | .rst _ => true
  | .ana _ => true
  | .xra _ => true
  | .ora _ => true
  | .cmp _ => true
  | .ani _ => true
  | .xri _ => true
  | .ori _ => true
  | .cpi _ => true
  | .rlc => true
  | .rrc => true
  | .ral => true
  | .rar => true
  | .cma => true
  | .cmc => true
  | .stc => true
  | .nop => true
  | .hlt => true
  | .di => true
  | .ei => true
  | .rim => true
  | .sim => true
  | .undefined08 => true
  | .undefined10 => true
  | .undefined18 => true
  | .undefined28 => true
  | .undefined38 => true
  | .undefinedCB => true
  | .undefinedD9 => true
  | .undefinedDD => true
  | .undefinedED => true
  | .undefinedFD => true

end Sys2Proof
end

