-- ==== Sys2Proof/Decode.lean ====
section
/-! DEFINITION. The decoder and the encoder, both written from 30_encoding.md (R80 to R89) and spec/opcode_table.json, with the
byte-order and field helpers they use. Every byte value is some row's opcode (R87), so only missing bytes are rejected. -/

namespace Sys2Proof

/-! ### Byte order and field codes -/

/-- `hi ++ lo` of R6: the 16-bit value with high-order byte `hi` and low-order byte `lo`. -/
def wordOf (hi lo : Byte) : Word := hi ++ lo

/-- The high-order byte `v[15:8]` (R6). -/
def hiByte (v : Word) : Byte := v.extractLsb' 8 8

/-- The low-order byte `v[7:0]` (R6). -/
def loByte (v : Word) : Byte := v.extractLsb' 0 8

/-- The 3-bit register code (R81). -/
def Reg.code : Reg → BitVec 3
  | .b => 0b000#3
  | .c => 0b001#3
  | .d => 0b010#3
  | .e => 0b011#3
  | .h => 0b100#3
  | .l => 0b101#3
  | .a => 0b111#3

/-- The 3-bit operand code: the register's, or 110 for M (R81). -/
def Operand.code : Operand → BitVec 3
  | .reg r => r.code
  | .m => 0b110#3

/-- The operand with a given 3-bit code (R81). -/
def Operand.ofCode (k : BitVec 3) : Operand :=
  match k.toNat with
  | 0 => .reg .b
  | 1 => .reg .c
  | 2 => .reg .d
  | 3 => .reg .e
  | 4 => .reg .h
  | 5 => .reg .l
  | 6 => .m
  | _ => .reg .a

/-- The 2-bit register-pair code of LXI, DAD, INX, DCX; PUSH, POP, LDAX and STAX use the same codes for the pairs they
accept (R82). -/
def Pair.code : Pair → BitVec 2
  | .bc => 0b00#2
  | .de => 0b01#2
  | .hl => 0b10#2
  | .sp => 0b11#2

/-- The pair with a given 2-bit code (R82). -/
def Pair.ofCode (k : BitVec 2) : Pair :=
  match k.toNat with
  | 0 => .bc
  | 1 => .de
  | 2 => .hl
  | _ => .sp

/-- The 3-bit condition code (R83, R170). -/
def Cond.code : Cond → BitVec 3
  | .nz => 0b000#3
  | .z => 0b001#3
  | .nc => 0b010#3
  | .c => 0b011#3
  | .po => 0b100#3
  | .pe => 0b101#3
  | .p => 0b110#3
  | .m => 0b111#3

/-! ### Lengths -/

/-- `length(op)` of R80: the opcode byte alone fixes the length. -/
def instrLength (op : Byte) : Nat :=
  let top := op.extractLsb' 6 2
  let low := op.extractLsb' 0 3
  if op ∈ [0x01#8, 0x11#8, 0x21#8, 0x31#8, 0x22#8, 0x2A#8, 0x32#8, 0x3A#8, 0xC3#8, 0xCD#8] then 3
  else if top = 0b11#2 ∧ low = 0b010#3 then 3
  else if top = 0b11#2 ∧ low = 0b100#3 then 3
  else if top = 0b00#2 ∧ low = 0b110#3 then 2
  else if top = 0b11#2 ∧ low = 0b110#3 then 2
  else if op ∈ [0xD3#8, 0xDB#8] then 2
  else 1

/-! ### Decoder -/

/-- Opcodes `00 xxx xxx`: the first four rows of the map (R87), by their low three bits. -/
def decodeQuarter00 (op b2 b3 : Byte) : Instr :=
  let field := op.extractLsb' 3 3
  let pair := Pair.ofCode (op.extractLsb' 4 2)
  let second := op.getLsbD 3
  match (op.extractLsb' 0 3).toNat with
  | 0 =>
    match field.toNat with
    | 0 => .nop
    | 1 => .undefined08
    | 2 => .undefined10
    | 3 => .undefined18
    | 4 => .rim
    | 5 => .undefined28
    | 6 => .sim
    | _ => .undefined38
  | 1 => if second then .dad pair else .lxi pair (wordOf b3 b2)
  | 2 =>
    match field.toNat with
    | 0 => .stax .bc
    | 1 => .ldax .bc
    | 2 => .stax .de
    | 3 => .ldax .de
    | 4 => .shld (wordOf b3 b2)
    | 5 => .lhld (wordOf b3 b2)
    | 6 => .sta (wordOf b3 b2)
    | _ => .lda (wordOf b3 b2)
  | 3 => if second then .dcx pair else .inx pair
  | 4 => .inr (Operand.ofCode field)
  | 5 => .dcr (Operand.ofCode field)
  | 6 =>
    match Operand.ofCode field with
    | .reg r => .mviR r b2
    | .m => .mviM b2
  | _ =>
    match field.toNat with
    | 0 => .rlc
    | 1 => .rrc
    | 2 => .ral
    | 3 => .rar
    | 4 => .daa
    | 5 => .cma
    | 6 => .stc
    | _ => .cmc

/-- Opcodes `01 ddd sss`: MOV, and HLT in the slot of "MOV M, M" (R87, D15). -/
def decodeQuarter01 (op : Byte) : Instr :=
  match Operand.ofCode (op.extractLsb' 3 3), Operand.ofCode (op.extractLsb' 0 3) with
  | .reg dst, .reg src => .movRR dst src
  | .reg dst, .m => .movRM dst
  | .m, .reg src => .movMR src
  | .m, .m => .hlt

/-- Opcodes `10 ooo sss`: the accumulator operations on a register or M (R85, format F3). -/
def decodeQuarter10 (op : Byte) : Instr :=
  let src := Operand.ofCode (op.extractLsb' 0 3)
  match (op.extractLsb' 3 3).toNat with
  | 0 => .add src
  | 1 => .adc src
  | 2 => .sub src
  | 3 => .sbb src
  | 4 => .ana src
  | 5 => .xra src
  | 6 => .ora src
  | _ => .cmp src

/-- Opcodes `11 xxx xxx`: the last four rows of the map (R87), by their low three bits. -/
def decodeQuarter11 (op b2 b3 : Byte) : Instr :=
  let field := op.extractLsb' 3 3
  let addr := wordOf b3 b2
  match (op.extractLsb' 0 3).toNat with
  | 0 =>
    match field.toNat with
    | 0 => .rnz
    | 1 => .rz
    | 2 => .rnc
    | 3 => .rc
    | 4 => .rpo
    | 5 => .rpe
    | 6 => .rp
    | _ => .rm
  | 1 =>
    match field.toNat with
    | 0 => .popRp .bc
    | 1 => .ret
    | 2 => .popRp .de
    | 3 => .undefinedD9
    | 4 => .popRp .hl
    | 5 => .pchl
    | 6 => .popA
    | _ => .sphl
  | 2 =>
    match field.toNat with
    | 0 => .jnz addr
    | 1 => .jz addr
    | 2 => .jnc addr
    | 3 => .jc addr
    | 4 => .jpo addr
    | 5 => .jpe addr
    | 6 => .jp addr
    | _ => .jm addr
  | 3 =>
    match field.toNat with
    | 0 => .jmp addr
    | 1 => .undefinedCB
    | 2 => .outPort b2
    | 3 => .inPort b2
    | 4 => .xthl
    | 5 => .xchg
    | 6 => .di
    | _ => .ei
  | 4 =>
    match field.toNat with
    | 0 => .cnz addr
    | 1 => .cz addr
    | 2 => .cnc addr
    | 3 => .cc addr
    | 4 => .cpo addr
    | 5 => .cpe addr
    | 6 => .cp addr
    | _ => .cm addr
  | 5 =>
    match field.toNat with
    | 0 => .pushRp .bc
    | 1 => .call addr
    | 2 => .pushRp .de
    | 3 => .undefinedDD
    | 4 => .pushRp .hl
    | 5 => .undefinedED
    | 6 => .pushA
    | _ => .undefinedFD
  | 6 =>
    match field.toNat with
    | 0 => .adi b2
    | 1 => .aci b2
    | 2 => .sui b2
    | 3 => .sbi b2
    | 4 => .ani b2
    | 5 => .xri b2
    | 6 => .ori b2
    | _ => .cpi b2
  | _ => .rst field

/-- The instruction an opcode byte selects with operand bytes `b2` and `b3` (R87); an instruction shorter than three bytes
looks at its own bytes only (R89). -/
def decodeInstr (op b2 b3 : Byte) : Instr :=
  match (op.extractLsb' 6 2).toNat with
  | 0 => decodeQuarter00 op b2 b3
  | 1 => decodeQuarter01 op
  | 2 => decodeQuarter10 op
  | _ => decodeQuarter11 op b2 b3

/-- Why a string of bytes does not begin with an instruction. -/
inductive DecodeError
  /-- There is no opcode byte. -/
  | noOpcode
  /-- The opcode byte is there, but its operand bytes are not all there. -/
  | missingOperand (op : Byte)
  deriving DecidableEq, Repr

/-- Reads one instruction from the front of a string of bytes, the byte at the lowest address first (20_memory.md R52),
and answers it with the bytes that follow it. -/
def decode (bytes : List Byte) : Except DecodeError (Instr × List Byte) :=
  match bytes with
  | [] => .error .noOpcode
  | op :: rest =>
    match instrLength op, rest with
    | 1, _ => .ok (decodeInstr op 0 0, rest)
    | 2, b2 :: rest' => .ok (decodeInstr op b2 0, rest')
    | 3, b2 :: b3 :: rest' => .ok (decodeInstr op b2 b3, rest')
    | _, _ => .error (.missingOperand op)

/-! ### Encoder -/

/-- One byte from its fields, the most significant first. -/
def fields233 (x : BitVec 2) (y z : BitVec 3) : Byte := x ++ y ++ z

/-- One byte with a register-pair field in bits 5:4: `xx rp yyyy` (R85). -/
def fields224 (x y : BitVec 2) (z : BitVec 4) : Byte := x ++ y ++ z

/-- A 3-byte instruction: opcode, low-order byte, high-order byte (R86). -/
def withWord (op : Byte) (v : Word) : List Byte := [op, loByte v, hiByte v]

/-- The bytes of an instruction, in address order (R85 to R87). For the `undefined…` rows it is the byte itself (R88). -/
def encode (i : Instr) : List Byte :=
  match i with
  | .movRR dst src => [fields233 0b01#2 dst.code src.code]
  | .movRM dst => [fields233 0b01#2 dst.code 0b110#3]
  | .movMR src => [fields233 0b01#2 0b110#3 src.code]
  | .mviR dst data => [fields233 0b00#2 dst.code 0b110#3, data]
  | .mviM data => [0x36#8, data]
  | .lda addr => withWord 0x3A#8 addr
  | .ldax p => [fields224 0b00#2 p.code 0b1010#4]
  | .lxi p data => withWord (fields224 0b00#2 p.code 0b0001#4) data
  | .lhld addr => withWord 0x2A#8 addr
  | .sta addr => withWord 0x32#8 addr
  | .stax p => [fields224 0b00#2 p.code 0b0010#4]
  | .shld addr => withWord 0x22#8 addr
  | .xchg => [0xEB#8]
  | .sphl => [0xF9#8]
  | .xthl => [0xE3#8]
  | .pushRp p => [fields224 0b11#2 p.code 0b0101#4]
  | .pushA => [0xF5#8]
  | .popRp p => [fields224 0b11#2 p.code 0b0001#4]
  | .popA => [0xF1#8]
  | .outPort port => [0xD3#8, port]
  | .inPort port => [0xDB#8, port]
  | .add src => [fields233 0b10#2 0b000#3 src.code]
  | .adc src => [fields233 0b10#2 0b001#3 src.code]
  | .sub src => [fields233 0b10#2 0b010#3 src.code]
  | .sbb src => [fields233 0b10#2 0b011#3 src.code]
  | .adi data => [0xC6#8, data]
  | .aci data => [0xCE#8, data]
  | .sui data => [0xD6#8, data]
  | .sbi data => [0xDE#8, data]
  | .dad p => [fields224 0b00#2 p.code 0b1001#4]
  | .inr dst => [fields233 0b00#2 dst.code 0b100#3]
  | .inx p => [fields224 0b00#2 p.code 0b0011#4]
  | .dcr dst => [fields233 0b00#2 dst.code 0b101#3]
  | .dcx p => [fields224 0b00#2 p.code 0b1011#4]
  | .daa => [0x27#8]
  | .jmp addr => withWord 0xC3#8 addr
  | .jc addr => withWord (fields233 0b11#2 (Cond.code .c) 0b010#3) addr
  | .jnc addr => withWord (fields233 0b11#2 (Cond.code .nc) 0b010#3) addr
  | .jp addr => withWord (fields233 0b11#2 (Cond.code .p) 0b010#3) addr
  | .jm addr => withWord (fields233 0b11#2 (Cond.code .m) 0b010#3) addr
  | .jz addr => withWord (fields233 0b11#2 (Cond.code .z) 0b010#3) addr
  | .jnz addr => withWord (fields233 0b11#2 (Cond.code .nz) 0b010#3) addr
  | .jpe addr => withWord (fields233 0b11#2 (Cond.code .pe) 0b010#3) addr
  | .jpo addr => withWord (fields233 0b11#2 (Cond.code .po) 0b010#3) addr
  | .call addr => withWord 0xCD#8 addr
  | .cc addr => withWord (fields233 0b11#2 (Cond.code .c) 0b100#3) addr
  | .cnc addr => withWord (fields233 0b11#2 (Cond.code .nc) 0b100#3) addr
  | .cp addr => withWord (fields233 0b11#2 (Cond.code .p) 0b100#3) addr
  | .cm addr => withWord (fields233 0b11#2 (Cond.code .m) 0b100#3) addr
  | .cz addr => withWord (fields233 0b11#2 (Cond.code .z) 0b100#3) addr
  | .cnz addr => withWord (fields233 0b11#2 (Cond.code .nz) 0b100#3) addr
  | .cpe addr => withWord (fields233 0b11#2 (Cond.code .pe) 0b100#3) addr
  | .cpo addr => withWord (fields233 0b11#2 (Cond.code .po) 0b100#3) addr
  | .ret => [0xC9#8]
  | .rc => [fields233 0b11#2 (Cond.code .c) 0b000#3]
  | .rnc => [fields233 0b11#2 (Cond.code .nc) 0b000#3]
  | .rp => [fields233 0b11#2 (Cond.code .p) 0b000#3]
  | .rm => [fields233 0b11#2 (Cond.code .m) 0b000#3]
  | .rz => [fields233 0b11#2 (Cond.code .z) 0b000#3]
  | .rnz => [fields233 0b11#2 (Cond.code .nz) 0b000#3]
  | .rpe => [fields233 0b11#2 (Cond.code .pe) 0b000#3]
  | .rpo => [fields233 0b11#2 (Cond.code .po) 0b000#3]
  | .pchl => [0xE9#8]
  | .rst n => [fields233 0b11#2 n 0b111#3]
  | .ana src => [fields233 0b10#2 0b100#3 src.code]
  | .xra src => [fields233 0b10#2 0b101#3 src.code]
  | .ora src => [fields233 0b10#2 0b110#3 src.code]
  | .cmp src => [fields233 0b10#2 0b111#3 src.code]
  | .ani data => [0xE6#8, data]
  | .xri data => [0xEE#8, data]
  | .ori data => [0xF6#8, data]
  | .cpi data => [0xFE#8, data]
  | .rlc => [0x07#8]
  | .rrc => [0x0F#8]
  | .ral => [0x17#8]
  | .rar => [0x1F#8]
  | .cma => [0x2F#8]
  | .cmc => [0x3F#8]
  | .stc => [0x37#8]
  | .nop => [0x00#8]
  | .hlt => [0x76#8]
  | .di => [0xF3#8]
  | .ei => [0xFB#8]
  | .rim => [0x20#8]
  | .sim => [0x30#8]
  | .undefined08 => [0x08#8]
  | .undefined10 => [0x10#8]
  | .undefined18 => [0x18#8]
  | .undefined28 => [0x28#8]
  | .undefined38 => [0x38#8]
  | .undefinedCB => [0xCB#8]
  | .undefinedD9 => [0xD9#8]
  | .undefinedDD => [0xDD#8]
  | .undefinedED => [0xED#8]
  | .undefinedFD => [0xFD#8]

/-! ### The table's numbering -/

/-- The instruction the decoder reads from the bytes whose bits are the low `nbits` bits of `w`: the first byte is bits 7
to 0, the second bits 15 to 8, the third bits 23 to 16, and a bit above `nbits` is 0. -/
def decodeTableWord (nbits w : Nat) : Option Instr :=
  let v := w % 2 ^ nbits
  match decode [BitVec.ofNat 8 v, BitVec.ofNat 8 (v / 256), BitVec.ofNat 8 (v / 65536)] with
  | .ok (i, _) => some i
  | .error _ => none

end Sys2Proof
end

