-- ==== Sys2Proof/Machine/Ops.lean ====
section
/-! DEFINITION. The named operations over memory, ports, the stack, the environment and the interrupt state: the primitives of
00_scope.md R8, R9, R11, the request latches, eligibility and priority (60_exceptions.md R263 to R265), taking an interrupt
(R267, R268) and the return from one (R270), and the reset event (70_reset_and_hazards.md R300). -/

namespace Sys2Proof.Machine

/-! ### Memory contents -/

/-- What an address that no cell lists reads as: 00H (DESIGN CHOICE, unsafe, log 5: R50 leaves the initial contents to the
platform). -/
def Memory.unlisted : Byte := 0x00#8

/-- The byte at an address. -/
def Memory.read (m : Memory) (a : Nat) : Byte :=
  match m with
  | [] => Memory.unlisted
  | c :: rest => if c.1 = a then c.2 else Memory.read rest a

/-- The memory with no cell for the address. -/
def Memory.without (m : Memory) (a : Nat) : Memory := m.filter (fun c => c.1 != a)

/-- Puts a cell before the first cell of a higher address. -/
def Memory.place (m : Memory) (a : Nat) (v : Byte) : Memory :=
  match m with
  | [] => [(a, v)]
  | c :: rest => if c.1 < a then c :: Memory.place rest a v else (a, v) :: c :: rest

/-- The memory with the byte at the address replaced; a byte equal to `Memory.unlisted` is not listed. -/
def Memory.write (m : Memory) (a : Nat) (v : Byte) : Memory :=
  if v = Memory.unlisted then Memory.without m a else Memory.place (Memory.without m a) a v

/-- The canonical form: addresses below 65536 and strictly rising, no cell that says what an unlisted address reads as. -/
def Memory.wf (m : Memory) : Bool :=
  match m with
  | [] => true
  | c :: rest =>
    decide (c.1 < 65536) && decide (c.2 ≠ Memory.unlisted) && rest.all (fun d => decide (c.1 < d.1)) && Memory.wf rest

/-! ### Events and the memory map -/

/-- Appends an event to the record (20_memory.md R58). -/
def State.note (e : Event) (s : State) : State := { s with events := s.events ++ [e] }

/-- What a free value drawn now may depend on. -/
def State.history (s : State) : History := ⟨s.env.boundary, s.events⟩

/-- What a map has at an address: the first region that holds it; an address in no region is RAM (R50, log 6). -/
def kindOf (regions : List Region) (a : Word) : MemKind :=
  match regions with
  | [] => .ram
  | r :: rest => if (a - r.base).toNat < r.size then r.kind else kindOf rest a

/-- What the platform has at an address (R50). -/
def State.kindAt (a : Word) (s : State) : MemKind := kindOf s.env.memMap a

/-- The address holds memory, read-write or read-only: reading it has no side effect (R56). -/
def State.holdsMemory (a : Word) (s : State) : Bool :=
  match s.kindAt a with
  | .ram => true
  | .rom => true
  | .unpopulated => false
  | .device => false

/-- The byte a read of the address returns now (R50): the contents of memory, or a free value where there is none (U5, D30;
log 7, log 8). -/
def State.byteAt (a : Word) (s : State) : Byte :=
  match s.kindAt a with
  | .ram => Memory.read s.mem a.toNat
  | .rom => Memory.read s.mem a.toNat
  | .unpopulated => Config.unpopulatedRead a s.history
  | .device => Config.deviceRead a s.history

/-- The state after the address has been read: a read where there is no memory is an event (R50, R56). -/
def State.afterRead (a : Word) (s : State) : State :=
  if s.holdsMemory a then s else s.note (.busRead a (s.byteAt a))

/-- `MemRead(a, 1)` of R8: the byte and the state after the access. -/
def State.memRead (a : Word) (s : State) : Byte × State := (s.byteAt a, s.afterRead a)

/-- `MemWrite(a, 1, v)` of R8. RAM holds the byte; ROM and unpopulated addresses ignore it (R50, U5); for a device it is an
event (D30, log 8). -/
def State.memWrite (a : Word) (v : Byte) (s : State) : State :=
  match s.kindAt a with
  | .ram => { s with mem := Memory.write s.mem a.toNat v }
  | .rom => s
  | .unpopulated => s
  | .device => s.note (.busWrite a v)

/-! ### I/O ports and serial input -/

/-- The byte the input port presents now: the record's, where it names the port, else a free value (R58, log 10). -/
def State.portByte (port : Byte) (s : State) : Byte :=
  (s.env.pins.ports.lookup port).getD (Config.ioRead port s.history)

/-- `IoRead(port)` of R9: the byte and the state after the read. -/
def State.ioRead (port : Byte) (s : State) : Byte × State :=
  (s.portByte port, s.note (.portRead port (s.portByte port)))

/-- `IoWrite(port, v)` of R9: an output event and nothing else (R58). -/
def State.ioWrite (port v : Byte) (s : State) : State := s.note (.portWrite port v)

/-- `sidInput()`: the serial input bit now, the record's or a free value (10_state.md R31, log 11). -/
def State.serialIn (s : State) : Bool := s.env.pins.sid.getD (Config.sidInput s.history)

/-! ### The stack -/

/-- `push16(v)` of R11: high-order byte at SP-1, then low-order byte at SP-2. -/
def State.push16 (v : Word) (s : State) : State :=
  let s1 := ({ s with sp := s.sp - 1 } : State).memWrite (s.sp - 1) (hiByte v)
  ({ s1 with sp := s1.sp - 1 } : State).memWrite (s1.sp - 1) (loByte v)

/-- `pop16()` of R11: low-order byte from SP, then high-order byte from SP+1. -/
def State.pop16 (s : State) : Word × State :=
  let lo := s.memRead s.sp
  let s1 : State := { lo.2 with sp := lo.2.sp + 1 }
  let hi := s1.memRead s1.sp
  (wordOf hi.1 lo.1, { hi.2 with sp := hi.2.sp + 1 })

/-- `pc <- pop16()`: the return from a subroutine and, there being no other, from an interrupt (42_branching.md R189,
60_exceptions.md R270). -/
def State.popPc (s : State) : State := { s.pop16.2 with pc := s.pop16.1 }

/-- `push16(PC); pc <- target`: the transfer of CALL, RST and interrupt entry (R180, R199, R267). -/
def State.callTo (target : Word) (s : State) : State := { s.push16 s.pc with pc := target }

/-! ### Inputs at a boundary -/

/-- The record of the coming boundary: the next scheduled one, else free interrupt inputs and nothing named (R264, U13,
log 9). -/
def State.nextRecord (s : State) : EnvRecord :=
  match s.env.schedule with
  | r :: _ => r
  | [] => EnvRecord.ofIrq (Config.irqInputs s.history)

/-- "update latches from irqInputs(k)" (R264, R266): the record is presented and rising edges set the latches I7_5 and
TRAP_FF, whatever the masks and IE are. -/
def State.presentInputs (s : State) : State :=
  let r := s.nextRecord
  { s with
    ctl := { s.ctl with i75 := s.ctl.i75 || r.irq.r75Rise, trapFF := s.ctl.trapFF || r.irq.trapRise }
    env := { s.env with pins := r, schedule := s.env.schedule.tail, boundary := s.env.boundary + 1 } }

/-! ### Interrupts -/

/-- The four internal restart interrupts (R261). -/
inductive Internal
  | trap | rst75 | rst65 | rst55
  deriving DecidableEq, Repr

/-- The five interrupt sources (R261). -/
inductive Source
  | internal (x : Internal)
  | intr
  deriving DecidableEq, Repr

/-- The entry address of an internal interrupt (R261, R57). -/
def Internal.vector : Internal → Word
  | .trap => 0x0024#16
  | .rst75 => 0x003C#16
  | .rst65 => 0x0034#16
  | .rst55 => 0x002C#16

/-- IE is set and the EI shadow is over: what every maskable source needs (R263). -/
def State.accepting (s : State) : Bool := s.ctl.ie && !s.ctl.eiShadow

/-- The condition for a source to be eligible at the current boundary (R263). -/
def State.eligible (s : State) : Source → Bool
  | .internal .trap => s.ctl.trapFF && s.env.pins.irq.trapLevel
  | .internal .rst75 => s.ctl.i75 && !s.ctl.m75 && s.accepting
  | .internal .rst65 => s.env.pins.irq.r65Level && !s.ctl.m65 && s.accepting
  | .internal .rst55 => s.env.pins.irq.r55Level && !s.ctl.m55 && s.accepting
  | .intr => s.env.pins.irq.intrLevel && s.accepting

/-- The sources, highest priority first (R265). -/
def sourcesByPriority : List Source :=
  [.internal .trap, .internal .rst75, .internal .rst65, .internal .rst55, .intr]

/-- The source to be taken at this boundary: the first eligible one in priority order (R265). -/
def State.pending (s : State) : Option Source := sourcesByPriority.find? s.eligible

/-- TAKING AN INTERRUPT, whatever its source (R267, R268): HALTED, IE and EI_SHADOW are cleared, PC is pushed, and control
goes to `target`. No register but SP, no flag and no mask changes. -/
def State.enterInterrupt (target : Word) (s : State) : State :=
  ({ s with ctl := { s.ctl with halted := false, ie := false, eiShadow := false } } : State).callTo target

/-- What taking an internal source does to its own latch: TRAP saves IE for the first RIM and clears TRAP_FF, RST 7.5
clears I7_5; the level-sensitive sources have none (R267, 10_state.md R30, R34). -/
def State.acknowledge (x : Internal) (s : State) : State :=
  match x with
  | .trap => { s with ctl := { s.ctl with trapIeSaved := s.ctl.ie, trapRimArmed := true, trapFF := false } }
  | .rst75 => { s with ctl := { s.ctl with i75 := false } }
  | .rst65 => s
  | .rst55 => s

/-- The entry sequence of TRAP, RST 7.5, RST 6.5 or RST 5.5 (R267). -/
def State.takeInternal (x : Internal) (s : State) : State := (s.acknowledge x).enterInterrupt x.vector

/-- `8 * n`, the restart address (R84, R86, R199). -/
def restartAddress (n : BitVec 3) : Word := n.setWidth 16 * 8#16

/-- Where an instruction supplied at an INTR acknowledge transfers control: RST n and CALL a16 only (R262, D24). -/
def suppliedTarget (bytes : IntaBytes) : Option Word :=
  match decodeInstr bytes.byte1 bytes.byte2 bytes.byte3 with
  | .rst n => some (restartAddress n)
  | .call addr => some addr
  | _ => none

/-- The bytes inserted at an acknowledge now: the record's, or free ones (R262, log 12). -/
def State.intaBytes (s : State) : IntaBytes := s.env.pins.inta.getD (Config.intaSupply s.history)

/-- The entry sequence of INTR with the supplied bytes (R268). PC is not advanced for them; anything but RST n or CALL a16
is refused (U8, log 16). -/
def State.takeIntr (bytes : IntaBytes) (s : State) : Host.Outcome State Fault Refusal :=
  match suppliedTarget bytes with
  | some target => .next ((s.note (.intAck bytes)).enterInterrupt target)
  | none => .refused (.intaInstruction bytes)

/-- Takes one source (R267, R268). -/
def State.takeInterrupt (x : Source) (s : State) : Host.Outcome State Fault Refusal :=
  match x with
  | .internal y => .next (s.takeInternal y)
  | .intr => s.takeIntr s.intaBytes

/-! ### The reset event -/

/-- The reset event of R300: the fixed values, the given ones for what R300 leaves unspecified; memory and the environment
are not changed, nor is TRAP_IE_SAVED, which R300 does not name. -/
def State.systemReset (regs : Registers) (sp : Word) (flags : Flags) (s : State) : State :=
  { s with
    regs := regs
    sp := sp
    pc := 0x0000#16
    flags := flags
    ctl :=
      { ie := false, m75 := true, m65 := true, m55 := true, i75 := false, trapFF := false, sod := false,
        halted := false, eiShadow := false, trapIeSaved := s.ctl.trapIeSaved, trapRimArmed := false } }

/-- The registers a reset event leaves: free values (R38, R300, U2; log 15). -/
def resetRegisters (h : History) : Registers :=
  { a := Config.resetRegister .a h, b := Config.resetRegister .b h, c := Config.resetRegister .c h,
    d := Config.resetRegister .d h, e := Config.resetRegister .e h, h := Config.resetRegister .h h,
    l := Config.resetRegister .l h }

/-- The flags a reset event leaves: free values (R38, R300, U2; log 15). -/
def resetFlags (h : History) : Flags :=
  let f := Config.resetFlags h
  { s := f.getLsbD 4, z := f.getLsbD 3, ac := f.getLsbD 2, p := f.getLsbD 1, cy := f.getLsbD 0 }

/-- A reset event now. -/
def State.resetEvent (s : State) : State :=
  s.systemReset (resetRegisters s.history) (Config.resetSP s.history) (resetFlags s.history)

end Sys2Proof.Machine
end

