-- ==== Sys2Proof/Machine/Operands.lean ====
section
/-! DEFINITION. Every operand form: registers, register pairs and SP, the operand R or M (00_scope.md R7, 10_state.md R20 to
R22), and the shared shapes of the conditional transfers (42_branching.md R171, R180, R189). -/

namespace Sys2Proof.Machine

/-- The value of a register: `x[c]` of R7. -/
def State.reg (r : Reg) (s : State) : Byte :=
  match r with
  | .a => s.regs.a
  | .b => s.regs.b
  | .c => s.regs.c
  | .d => s.regs.d
  | .e => s.regs.e
  | .h => s.regs.h
  | .l => s.regs.l

/-- Writes a register: `x[c] <- v` of R7. -/
def State.setReg (r : Reg) (v : Byte) (s : State) : State :=
  match r with
  | .a => { s with regs := { s.regs with a := v } }
  | .b => { s with regs := { s.regs with b := v } }
  | .c => { s with regs := { s.regs with c := v } }
  | .d => { s with regs := { s.regs with d := v } }
  | .e => { s with regs := { s.regs with e := v } }
  | .h => { s with regs := { s.regs with h := v } }
  | .l => { s with regs := { s.regs with l := v } }

/-- The value of a pair or SP: `rp[p]` of R7. -/
def State.pair (p : Pair) (s : State) : Word :=
  match p with
  | .bc => wordOf s.regs.b s.regs.c
  | .de => wordOf s.regs.d s.regs.e
  | .hl => wordOf s.regs.h s.regs.l
  | .sp => s.sp

/-- Writes a pair or SP: `rp[p] <- v` of R7, high-order byte to the high-order register (R21). -/
def State.setPair (p : Pair) (v : Word) (s : State) : State :=
  match p with
  | .bc => { s with regs := { s.regs with b := hiByte v, c := loByte v } }
  | .de => { s with regs := { s.regs with d := hiByte v, e := loByte v } }
  | .hl => { s with regs := { s.regs with h := hiByte v, l := loByte v } }
  | .sp => { s with sp := v }

/-- `HL`, the address of the operand M (R7). -/
def State.hl (s : State) : Word := s.pair .hl

/-- `rd8(c)` of R7: the operand's value and the state after reading it. -/
def State.readOperand (o : Operand) (s : State) : Byte × State :=
  match o with
  | .reg r => (s.reg r, s)
  | .m => s.memRead s.hl

/-- `wr8(c, v)` of R7. -/
def State.writeOperand (o : Operand) (v : Byte) (s : State) : State :=
  match o with
  | .reg r => s.setReg r v
  | .m => s.memWrite s.hl v

/-- Stores a result in A and its flags. -/
def State.accumulate (x : Byte × Flags) (s : State) : State := { s.setReg .a x.1 with flags := x.2 }

/-- Stores a rotated A and the new CY; S, Z, P, AC are not affected (43_logical.md R218). -/
def State.rotated (x : Byte × Bool) (s : State) : State :=
  { s.setReg .a x.1 with flags := { s.flags with cy := x.2 } }

/-- `if cond(ccc) then pc <- a16` (R172 to R179). -/
def State.jumpIf (k : Cond) (target : Word) (s : State) : State :=
  if Cond.holds s.flags k then { s with pc := target } else s

/-- `if cond(ccc) then { push16(PC); pc <- a16 }` (R181 to R188). -/
def State.callIf (k : Cond) (target : Word) (s : State) : State :=
  if Cond.holds s.flags k then s.callTo target else s

/-- `if cond(ccc) then pc <- pop16()` (R190 to R197). -/
def State.returnIf (k : Cond) (s : State) : State :=
  if Cond.holds s.flags k then s.popPc else s

/-- The stop of the ten unassigned opcode bytes: `raise UndefinedOpcode(op)` with the byte and the address it was fetched
from, which PC, advanced by the fetch, is one past (30_encoding.md R88, 60_exceptions.md R260). -/
def State.undefinedOpcode (op : Byte) (s : State) : Host.Outcome State Fault Refusal :=
  .fault (.undefinedOpcode op (s.pc - 1))

end Sys2Proof.Machine
end

