-- ==== Sys2Proof/Machine/Arithmetic.lean ====
section
/-! DEFINITION. The meanings of the arithmetic instructions (41_arithmetic.md R142 to R155). -/

namespace Sys2Proof.Machine

/-- ADD R / ADD M: `v <- rd8(sss); A <- add8(A, v, 0)` (R142). -/
def execAdd (src : Operand) (s : State) : Host.Outcome State Fault Refusal :=
  let v := s.readOperand src
  .next (v.2.accumulate (add8 (s.reg .a) v.1 false))

/-- ADC R / ADC M: `v <- rd8(sss); A <- add8(A, v, CY)` (R143). -/
def execAdc (src : Operand) (s : State) : Host.Outcome State Fault Refusal :=
  let v := s.readOperand src
  .next (v.2.accumulate (add8 (s.reg .a) v.1 s.flags.cy))

/-- SUB R / SUB M: `v <- rd8(sss); A <- sub8(A, v, 0)` (R147). -/
def execSub (src : Operand) (s : State) : Host.Outcome State Fault Refusal :=
  let v := s.readOperand src
  .next (v.2.accumulate (sub8 (s.reg .a) v.1 false))

/-- SBB R / SBB M: `v <- rd8(sss); A <- sub8(A, v, CY)` (R148). -/
def execSbb (src : Operand) (s : State) : Host.Outcome State Fault Refusal :=
  let v := s.readOperand src
  .next (v.2.accumulate (sub8 (s.reg .a) v.1 s.flags.cy))

/-- ADI data: `A <- add8(A, d8, 0)` (R144). -/
def execAdi (data : Byte) (s : State) : Host.Outcome State Fault Refusal :=
  .next (s.accumulate (add8 (s.reg .a) data false))

/-- ACI data: `A <- add8(A, d8, CY)` (R145). -/
def execAci (data : Byte) (s : State) : Host.Outcome State Fault Refusal :=
  .next (s.accumulate (add8 (s.reg .a) data s.flags.cy))

/-- SUI data: `A <- sub8(A, d8, 0)` (R149). -/
def execSui (data : Byte) (s : State) : Host.Outcome State Fault Refusal :=
  .next (s.accumulate (sub8 (s.reg .a) data false))

/-- SBI data: `A <- sub8(A, d8, CY)` (R150). -/
def execSbi (data : Byte) (s : State) : Host.Outcome State Fault Refusal :=
  .next (s.accumulate (sub8 (s.reg .a) data s.flags.cy))

/-- DAD rp: `HL <- HL + rp[rp]`, CY the carry out of bit 15, no other flag (R146). -/
def execDad (p : Pair) (s : State) : Host.Outcome State Fault Refusal :=
  let x := add16 s.hl (s.pair p)
  .next { s.setPair .hl x.1 with flags := { s.flags with cy := x.2 } }

/-- INR R / INR M: read, add 1, write back; S, Z, P, AC written, CY kept (R151). -/
def execInr (dst : Operand) (s : State) : Host.Outcome State Fault Refusal :=
  let v := s.readOperand dst
  let x := inc8 v.1 s.flags
  .next { v.2.writeOperand dst x.1 with flags := x.2 }

/-- INX rp: `rp[rp] <- (rp[rp] + 1) mod 65536`, no flag (R152). -/
def execInx (p : Pair) (s : State) : Host.Outcome State Fault Refusal :=
  .next (s.setPair p (s.pair p + 1))

/-- DCR R / DCR M: read, subtract 1, write back; S, Z, P, AC written, CY kept (R153). -/
def execDcr (dst : Operand) (s : State) : Host.Outcome State Fault Refusal :=
  let v := s.readOperand dst
  let x := dec8 v.1 s.flags
  .next { v.2.writeOperand dst x.1 with flags := x.2 }

/-- DCX rp: `rp[rp] <- (rp[rp] - 1) mod 65536`, no flag (R154). -/
def execDcx (p : Pair) (s : State) : Host.Outcome State Fault Refusal :=
  .next (s.setPair p (s.pair p - 1))

/-- DAA: decimal adjust of A with all five flags (R155). -/
def execDaa (s : State) : Host.Outcome State Fault Refusal :=
  .next (s.accumulate (decimalAdjust (s.reg .a) s.flags))

end Sys2Proof.Machine
end

