-- ==== Sys2Proof/Machine/Branching.lean ====
section
/-! DEFINITION. The meanings of the branching instructions (42_branching.md R171 to R199). PC already holds the address of the next
instruction (10_state.md R24). -/

namespace Sys2Proof.Machine

/-- JMP a16: `pc <- a16` (R171). -/
def execJmp (addr : Word) (s : State) : Host.Outcome State Fault Refusal :=
  .next { s with pc := addr }

/-- JC a16: `if CY = 1 then pc <- a16` (R172). -/
def execJc (addr : Word) (s : State) : Host.Outcome State Fault Refusal :=
  .next (s.jumpIf .c addr)

/-- JNC a16: `if CY = 0 then pc <- a16` (R173). -/
def execJnc (addr : Word) (s : State) : Host.Outcome State Fault Refusal :=
  .next (s.jumpIf .nc addr)

/-- JP a16: `if S = 0 then pc <- a16` (R174). -/
def execJp (addr : Word) (s : State) : Host.Outcome State Fault Refusal :=
  .next (s.jumpIf .p addr)

/-- JM a16: `if S = 1 then pc <- a16` (R175). -/
def execJm (addr : Word) (s : State) : Host.Outcome State Fault Refusal :=
  .next (s.jumpIf .m addr)

/-- JZ a16: `if Z = 1 then pc <- a16` (R176). -/
def execJz (addr : Word) (s : State) : Host.Outcome State Fault Refusal :=
  .next (s.jumpIf .z addr)

/-- JNZ a16: `if Z = 0 then pc <- a16` (R177). -/
def execJnz (addr : Word) (s : State) : Host.Outcome State Fault Refusal :=
  .next (s.jumpIf .nz addr)

/-- JPE a16: `if P = 1 then pc <- a16` (R178). -/
def execJpe (addr : Word) (s : State) : Host.Outcome State Fault Refusal :=
  .next (s.jumpIf .pe addr)

/-- JPO a16: `if P = 0 then pc <- a16` (R179). -/
def execJpo (addr : Word) (s : State) : Host.Outcome State Fault Refusal :=
  .next (s.jumpIf .po addr)

/-- CALL a16: `push16(PC); pc <- a16` (R180). -/
def execCall (addr : Word) (s : State) : Host.Outcome State Fault Refusal :=
  .next (s.callTo addr)

/-- CC a16: `if CY = 1 then push16(PC); pc <- a16` (R181). -/
def execCc (addr : Word) (s : State) : Host.Outcome State Fault Refusal :=
  .next (s.callIf .c addr)

/-- CNC a16: `if CY = 0 then push16(PC); pc <- a16` (R182). -/
def execCnc (addr : Word) (s : State) : Host.Outcome State Fault Refusal :=
  .next (s.callIf .nc addr)

/-- CP a16: `if S = 0 then push16(PC); pc <- a16` (R183). -/
def execCp (addr : Word) (s : State) : Host.Outcome State Fault Refusal :=
  .next (s.callIf .p addr)

/-- CM a16: `if S = 1 then push16(PC); pc <- a16` (R184). -/
def execCm (addr : Word) (s : State) : Host.Outcome State Fault Refusal :=
  .next (s.callIf .m addr)

/-- CZ a16: `if Z = 1 then push16(PC); pc <- a16` (R185). -/
def execCz (addr : Word) (s : State) : Host.Outcome State Fault Refusal :=
  .next (s.callIf .z addr)

/-- CNZ a16: `if Z = 0 then push16(PC); pc <- a16` (R186). -/
def execCnz (addr : Word) (s : State) : Host.Outcome State Fault Refusal :=
  .next (s.callIf .nz addr)

/-- CPE a16: `if P = 1 then push16(PC); pc <- a16` (R187). -/
def execCpe (addr : Word) (s : State) : Host.Outcome State Fault Refusal :=
  .next (s.callIf .pe addr)

/-- CPO a16: `if P = 0 then push16(PC); pc <- a16` (R188). -/
def execCpo (addr : Word) (s : State) : Host.Outcome State Fault Refusal :=
  .next (s.callIf .po addr)

/-- RET: `pc <- pop16()` (R189). -/
def execRet (s : State) : Host.Outcome State Fault Refusal :=
  .next s.popPc

/-- RC: `if CY = 1 then pc <- pop16()` (R190). -/
def execRc (s : State) : Host.Outcome State Fault Refusal :=
  .next (s.returnIf .c)

/-- RNC: `if CY = 0 then pc <- pop16()` (R191). -/
def execRnc (s : State) : Host.Outcome State Fault Refusal :=
  .next (s.returnIf .nc)

/-- RP: `if S = 0 then pc <- pop16()` (R192). -/
def execRp (s : State) : Host.Outcome State Fault Refusal :=
  .next (s.returnIf .p)

/-- RM: `if S = 1 then pc <- pop16()` (R193). -/
def execRm (s : State) : Host.Outcome State Fault Refusal :=
  .next (s.returnIf .m)

/-- RZ: `if Z = 1 then pc <- pop16()` (R194). -/
def execRz (s : State) : Host.Outcome State Fault Refusal :=
  .next (s.returnIf .z)

/-- RNZ: `if Z = 0 then pc <- pop16()` (R195). -/
def execRnz (s : State) : Host.Outcome State Fault Refusal :=
  .next (s.returnIf .nz)

/-- RPE: `if P = 1 then pc <- pop16()` (R196). -/
def execRpe (s : State) : Host.Outcome State Fault Refusal :=
  .next (s.returnIf .pe)

/-- RPO: `if P = 0 then pc <- pop16()` (R197). -/
def execRpo (s : State) : Host.Outcome State Fault Refusal :=
  .next (s.returnIf .po)

/-- PCHL: `pc <- H ++ L` (R198). -/
def execPchl (s : State) : Host.Outcome State Fault Refusal :=
  .next { s with pc := s.hl }

/-- RST n: `push16(PC); pc <- 8 * n`, no interrupt state touched (R199). -/
def execRst (n : BitVec 3) (s : State) : Host.Outcome State Fault Refusal :=
  .next (s.callTo (restartAddress n))

end Sys2Proof.Machine
end

