-- ==== Sys2Proof/Machine/Control.lean ====
section
/-! DEFINITION. The meanings of the control instructions (44_control.md R240 to R245) and the two accumulator images (10_state.md R35). -/

namespace Sys2Proof.Machine

/-- The image RIM puts in A: SID, I7.5, I6.5, I5.5, IE, M7.5, M6.5, M5.5 (10_state.md R35, R244). Bit 3 is the saved IE for the
first RIM after a TRAP (R34). -/
def State.rimImage (s : State) : Byte :=
  byteOfBits s.serialIn s.ctl.i75 s.env.pins.irq.r65Level s.env.pins.irq.r55Level
    (if s.ctl.trapRimArmed then s.ctl.trapIeSaved else s.ctl.ie) s.ctl.m75 s.ctl.m65 s.ctl.m55

/-- MSE, bit 3: load the three masks from bits 2, 1, 0 (R35, R245). -/
def Control.loadMasks (v : Byte) (c : Control) : Control :=
  if v.getLsbD 3 then { c with m75 := v.getLsbD 2, m65 := v.getLsbD 1, m55 := v.getLsbD 0 } else c

/-- R7.5, bit 4: clear the latch I7_5 (R35, R245). -/
def Control.clearRst75 (v : Byte) (c : Control) : Control :=
  if v.getLsbD 4 then { c with i75 := false } else c

/-- SDE, bit 6: load SOD from bit 7 (R35, R245); the load is an event the environment sees (log 14). -/
def State.loadSod (v : Byte) (s : State) : State :=
  if v.getLsbD 6 then
    ({ s with ctl := { s.ctl with sod := v.getLsbD 7 } } : State).note (.serialOut (v.getLsbD 7))
  else s

/-- What SIM does with the image `v`: three independent actions; bit 5 is ignored (R35, R245). -/
def State.applySimImage (v : Byte) (s : State) : State :=
  ({ s with ctl := (s.ctl.loadMasks v).clearRst75 v } : State).loadSod v

/-- NOP: nothing beyond the fetch (R240). -/
def execNop (s : State) : Host.Outcome State Fault Refusal :=
  .next s

/-- HLT: `HALTED <- 1` (R241). -/
def execHlt (s : State) : Host.Outcome State Fault Refusal :=
  .next { s with ctl := { s.ctl with halted := true } }

/-- DI: `IE <- 0; EI_SHADOW <- 0` (R242). -/
def execDi (s : State) : Host.Outcome State Fault Refusal :=
  .next { s with ctl := { s.ctl with ie := false, eiShadow := false } }

/-- EI: `IE <- 1; EI_SHADOW <- 1` (R243). -/
def execEi (s : State) : Host.Outcome State Fault Refusal :=
  .next { s with ctl := { s.ctl with ie := true, eiShadow := true } }

/-- RIM: A is loaded with the read image; only TRAP_RIM_ARMED changes besides (R244). -/
def execRim (s : State) : Host.Outcome State Fault Refusal :=
  .next { s.setReg .a s.rimImage with ctl := { s.ctl with trapRimArmed := false } }

/-- SIM: the write image in A is interpreted; A is not written (R245). -/
def execSim (s : State) : Host.Outcome State Fault Refusal :=
  .next (s.applySimImage (s.reg .a))

end Sys2Proof.Machine
end

