-- ==== Sys2Proof/Machine/DataTransfer.lean ====
section
/-! DEFINITION. The meanings of the data transfer instructions (40_data_transfer.md R110 to R130). Each runs after its bytes are fetched and PC
has advanced past them (10_state.md R24). -/

namespace Sys2Proof.Machine

/-- MOV Rd, Rs: `x[ddd] <- x[sss]` (R110). -/
def execMovRR (dst src : Reg) (s : State) : Host.Outcome State Fault Refusal :=
  .next (s.setReg dst (s.reg src))

/-- MOV Rd, M: `x[ddd] <- MemRead(HL, 1)`, the address from H and L as they were (R111). -/
def execMovRM (dst : Reg) (s : State) : Host.Outcome State Fault Refusal :=
  let v := s.memRead s.hl
  .next (v.2.setReg dst v.1)

/-- MOV M, Rs: `MemWrite(HL, 1, x[sss])` (R112). -/
def execMovMR (src : Reg) (s : State) : Host.Outcome State Fault Refusal :=
  .next (s.memWrite s.hl (s.reg src))

/-- MVI Rd, data: `x[ddd] <- d8` (R113). -/
def execMviR (dst : Reg) (data : Byte) (s : State) : Host.Outcome State Fault Refusal :=
  .next (s.setReg dst data)

/-- MVI M, data: `MemWrite(HL, 1, d8)` (R114). -/
def execMviM (data : Byte) (s : State) : Host.Outcome State Fault Refusal :=
  .next (s.memWrite s.hl data)

/-- LDA a16: `A <- MemRead(a16, 1)` (R115). -/
def execLda (addr : Word) (s : State) : Host.Outcome State Fault Refusal :=
  let v := s.memRead addr
  .next (v.2.setReg .a v.1)

/-- LDAX rp: `A <- MemRead(rp[p], 1)` (R116). -/
def execLdax (p : Pair) (s : State) : Host.Outcome State Fault Refusal :=
  let v := s.memRead (s.pair p)
  .next (v.2.setReg .a v.1)

/-- LXI rp, d16: `rp[rp] <- d16` (R117). -/
def execLxi (p : Pair) (data : Word) (s : State) : Host.Outcome State Fault Refusal :=
  .next (s.setPair p data)

/-- LHLD a16: `L <- MemRead(a16, 1); H <- MemRead(a16 +16 1, 1)` (R118). -/
def execLhld (addr : Word) (s : State) : Host.Outcome State Fault Refusal :=
  let lo := s.memRead addr
  let hi := lo.2.memRead (addr + 1)
  .next (hi.2.setPair .hl (wordOf hi.1 lo.1))

/-- STA a16: `MemWrite(a16, 1, A)` (R119). -/
def execSta (addr : Word) (s : State) : Host.Outcome State Fault Refusal :=
  .next (s.memWrite addr (s.reg .a))

/-- STAX rp: `MemWrite(rp[p], 1, A)` (R120). -/
def execStax (p : Pair) (s : State) : Host.Outcome State Fault Refusal :=
  .next (s.memWrite (s.pair p) (s.reg .a))

/-- SHLD a16: `MemWrite(a16, 1, L); MemWrite(a16 +16 1, 1, H)` (R121). -/
def execShld (addr : Word) (s : State) : Host.Outcome State Fault Refusal :=
  .next ((s.memWrite addr (s.reg .l)).memWrite (addr + 1) (s.reg .h))

/-- XCHG: `t <- HL; HL <- DE; DE <- t` (R122). -/
def execXchg (s : State) : Host.Outcome State Fault Refusal :=
  .next ((s.setPair .hl (s.pair .de)).setPair .de (s.pair .hl))

/-- SPHL: `SP <- H ++ L` (R123). -/
def execSphl (s : State) : Host.Outcome State Fault Refusal :=
  .next (s.setPair .sp s.hl)

/-- XTHL: HL exchanged with the top of the stack, reads before writes, SP kept (R124, 20_memory.md R55). -/
def execXthl (s : State) : Host.Outcome State Fault Refusal :=
  let lo := s.memRead s.sp
  let hi := lo.2.memRead (s.sp + 1)
  let written := (hi.2.memWrite (s.sp + 1) (s.reg .h)).memWrite s.sp (s.reg .l)
  .next (written.setPair .hl (wordOf hi.1 lo.1))

/-- PUSH rp: `push16(rp[rp])` (R125). -/
def execPushRp (p : Pair) (s : State) : Host.Outcome State Fault Refusal :=
  .next (s.push16 (s.pair p))

/-- PUSH A: A, then the flag byte with unspecified spare bits, a fresh draw each time (R126, 10_state.md R27, U3; log 13). -/
def execPushA (s : State) : Host.Outcome State Fault Refusal :=
  .next (s.push16 (wordOf (s.reg .a) (s.flags.toByte (Config.pswSpareBits s.history))))

/-- POP rp: `rp[rp] <- pop16()` (R127). -/
def execPopRp (p : Pair) (s : State) : Host.Outcome State Fault Refusal :=
  let v := s.pop16
  .next (v.2.setPair p v.1)

/-- POP A: the flags from the byte at SP, A from the byte at SP+1 (R128). -/
def execPopA (s : State) : Host.Outcome State Fault Refusal :=
  let v := s.pop16
  .next (v.2.accumulate (hiByte v.1, Flags.ofByte (loByte v.1)))

/-- OUT port: `IoWrite(port, A)` (R129). -/
def execOutPort (port : Byte) (s : State) : Host.Outcome State Fault Refusal :=
  .next (s.ioWrite port (s.reg .a))

/-- IN port: `A <- IoRead(port)` (R130). -/
def execInPort (port : Byte) (s : State) : Host.Outcome State Fault Refusal :=
  let v := s.ioRead port
  .next (v.2.setReg .a v.1)

end Sys2Proof.Machine
end

