-- ==== Sys2Proof/Machine/Logical.lean ====
section
/-! DEFINITION. The meanings of the logical instructions (43_logical.md R210 to R224). -/

namespace Sys2Proof.Machine

/-- ANA R / ANA M: AND; CY reset, AC set (R212). -/
def execAna (src : Operand) (s : State) : Host.Outcome State Fault Refusal :=
  let v := s.readOperand src
  let r := s.reg .a &&& v.1
  .next (v.2.accumulate (r, andFlags r s.flags))

/-- XRA R / XRA M: exclusive OR; CY and AC reset (R214). -/
def execXra (src : Operand) (s : State) : Host.Outcome State Fault Refusal :=
  let v := s.readOperand src
  let r := s.reg .a ^^^ v.1
  .next (v.2.accumulate (r, orFlags r s.flags))

/-- ORA R / ORA M: OR; CY and AC reset (R216). -/
def execOra (src : Operand) (s : State) : Host.Outcome State Fault Refusal :=
  let v := s.readOperand src
  let r := s.reg .a ||| v.1
  .next (v.2.accumulate (r, orFlags r s.flags))

/-- CMP R / CMP M: the flags of `A - v`; A is not written (R210). -/
def execCmp (src : Operand) (s : State) : Host.Outcome State Fault Refusal :=
  let v := s.readOperand src
  .next { v.2 with flags := (sub8 (s.reg .a) v.1 false).2 }

/-- ANI data: AND; CY reset, AC set (R213). -/
def execAni (data : Byte) (s : State) : Host.Outcome State Fault Refusal :=
  let r := s.reg .a &&& data
  .next (s.accumulate (r, andFlags r s.flags))

/-- XRI data: exclusive OR; CY and AC reset (R215). -/
def execXri (data : Byte) (s : State) : Host.Outcome State Fault Refusal :=
  let r := s.reg .a ^^^ data
  .next (s.accumulate (r, orFlags r s.flags))

/-- ORI data: OR; CY and AC reset (R217). -/
def execOri (data : Byte) (s : State) : Host.Outcome State Fault Refusal :=
  let r := s.reg .a ||| data
  .next (s.accumulate (r, orFlags r s.flags))

/-- CPI data: the flags of `A - d8`; A is not written (R211). -/
def execCpi (data : Byte) (s : State) : Host.Outcome State Fault Refusal :=
  .next { s with flags := (sub8 (s.reg .a) data false).2 }

/-- RLC (R218). -/
def execRlc (s : State) : Host.Outcome State Fault Refusal :=
  .next (s.rotated (rotateLeft (s.reg .a)))

/-- RRC (R219). -/
def execRrc (s : State) : Host.Outcome State Fault Refusal :=
  .next (s.rotated (rotateRight (s.reg .a)))

/-- RAL (R220). -/
def execRal (s : State) : Host.Outcome State Fault Refusal :=
  .next (s.rotated (rotateLeftThrough (s.reg .a) s.flags.cy))

/-- RAR (R221). -/
def execRar (s : State) : Host.Outcome State Fault Refusal :=
  .next (s.rotated (rotateRightThrough (s.reg .a) s.flags.cy))

/-- CMA: `A <- ~A`, no flag (R222). -/
def execCma (s : State) : Host.Outcome State Fault Refusal :=
  .next (s.setReg .a (~~~(s.reg .a)))

/-- CMC: `CY <- 1 - CY` (R223). -/
def execCmc (s : State) : Host.Outcome State Fault Refusal :=
  .next { s with flags := { s.flags with cy := !s.flags.cy } }

/-- STC: `CY <- 1` (R224). -/
def execStc (s : State) : Host.Outcome State Fault Refusal :=
  .next { s with flags := { s.flags with cy := true } }

end Sys2Proof.Machine
end

