-- ==== Sys2Proof/Machine/Undefined.lean ====
section
/-! DEFINITION. The meanings of the ten opcode bytes no instruction is assigned to (30_encoding.md R88): their meaning is the fault. -/

namespace Sys2Proof.Machine

/-- The byte 08H: `raise UndefinedOpcode(08H)` (R88). -/
def execUndefined08 (s : State) : Host.Outcome State Fault Refusal :=
  s.undefinedOpcode 0x08#8

/-- The byte 10H: `raise UndefinedOpcode(10H)` (R88). -/
def execUndefined10 (s : State) : Host.Outcome State Fault Refusal :=
  s.undefinedOpcode 0x10#8

/-- The byte 18H: `raise UndefinedOpcode(18H)` (R88). -/
def execUndefined18 (s : State) : Host.Outcome State Fault Refusal :=
  s.undefinedOpcode 0x18#8

/-- The byte 28H: `raise UndefinedOpcode(28H)` (R88). -/
def execUndefined28 (s : State) : Host.Outcome State Fault Refusal :=
  s.undefinedOpcode 0x28#8

/-- The byte 38H: `raise UndefinedOpcode(38H)` (R88). -/
def execUndefined38 (s : State) : Host.Outcome State Fault Refusal :=
  s.undefinedOpcode 0x38#8

/-- The byte CBH: `raise UndefinedOpcode(CBH)` (R88). -/
def execUndefinedCB (s : State) : Host.Outcome State Fault Refusal :=
  s.undefinedOpcode 0xCB#8

/-- The byte D9H: `raise UndefinedOpcode(D9H)` (R88). -/
def execUndefinedD9 (s : State) : Host.Outcome State Fault Refusal :=
  s.undefinedOpcode 0xD9#8

/-- The byte DDH: `raise UndefinedOpcode(DDH)` (R88). -/
def execUndefinedDD (s : State) : Host.Outcome State Fault Refusal :=
  s.undefinedOpcode 0xDD#8

/-- The byte EDH: `raise UndefinedOpcode(EDH)` (R88). -/
def execUndefinedED (s : State) : Host.Outcome State Fault Refusal :=
  s.undefinedOpcode 0xED#8

/-- The byte FDH: `raise UndefinedOpcode(FDH)` (R88). -/
def execUndefinedFD (s : State) : Host.Outcome State Fault Refusal :=
  s.undefinedOpcode 0xFD#8

end Sys2Proof.Machine
end

