-- ==== Sys2Proof/Machine/Dispatch.lean ====
section
/-! DEFINITION. The dispatch: one arm per constructor of `Instr`, each a call of its own meaning. -/

namespace Sys2Proof.Machine

def exec (i : Instr) (s : State) : Host.Outcome State Fault Refusal :=
  match i with
  -- Data transfer (40_data_transfer.md)
  | .movRR dst src => Sys2Proof.Machine.execMovRR dst src s
  | .movRM dst => Sys2Proof.Machine.execMovRM dst s
  | .movMR src => Sys2Proof.Machine.execMovMR src s
  | .mviR dst data => Sys2Proof.Machine.execMviR dst data s
  | .mviM data => Sys2Proof.Machine.execMviM data s
  | .lda addr => Sys2Proof.Machine.execLda addr s
  | .ldax p => Sys2Proof.Machine.execLdax p s
  | .lxi p data => Sys2Proof.Machine.execLxi p data s
  | .lhld addr => Sys2Proof.Machine.execLhld addr s
  | .sta addr => Sys2Proof.Machine.execSta addr s
  | .stax p => Sys2Proof.Machine.execStax p s
  | .shld addr => Sys2Proof.Machine.execShld addr s
  | .xchg => Sys2Proof.Machine.execXchg s
  | .sphl => Sys2Proof.Machine.execSphl s
  | .xthl => Sys2Proof.Machine.execXthl s
  | .pushRp p => Sys2Proof.Machine.execPushRp p s
  | .pushA => Sys2Proof.Machine.execPushA s
  | .popRp p => Sys2Proof.Machine.execPopRp p s
  | .popA => Sys2Proof.Machine.execPopA s
  | .outPort port => Sys2Proof.Machine.execOutPort port s
  | .inPort port => Sys2Proof.Machine.execInPort port s
  -- Arithmetic (41_arithmetic.md)
  | .add src => Sys2Proof.Machine.execAdd src s
  | .adc src => Sys2Proof.Machine.execAdc src s
  | .sub src => Sys2Proof.Machine.execSub src s
  | .sbb src => Sys2Proof.Machine.execSbb src s
  | .adi data => Sys2Proof.Machine.execAdi data s
  | .aci data => Sys2Proof.Machine.execAci data s
  | .sui data => Sys2Proof.Machine.execSui data s
  | .sbi data => Sys2Proof.Machine.execSbi data s
  | .dad p => Sys2Proof.Machine.execDad p s
  | .inr dst => Sys2Proof.Machine.execInr dst s
  | .inx p => Sys2Proof.Machine.execInx p s
  | .dcr dst => Sys2Proof.Machine.execDcr dst s
  | .dcx p => Sys2Proof.Machine.execDcx p s
  | .daa => Sys2Proof.Machine.execDaa s
  -- Branching (42_branching.md)
  | .jmp addr => Sys2Proof.Machine.execJmp addr s
  | .jc addr => Sys2Proof.Machine.execJc addr s
  | .jnc addr => Sys2Proof.Machine.execJnc addr s
  | .jp addr => Sys2Proof.Machine.execJp addr s
  | .jm addr => Sys2Proof.Machine.execJm addr s
  | .jz addr => Sys2Proof.Machine.execJz addr s
  | .jnz addr => Sys2Proof.Machine.execJnz addr s
  | .jpe addr => Sys2Proof.Machine.execJpe addr s
  | .jpo addr => Sys2Proof.Machine.execJpo addr s
  | .call addr => Sys2Proof.Machine.execCall addr s
  | .cc addr => Sys2Proof.Machine.execCc addr s
  | .cnc addr => Sys2Proof.Machine.execCnc addr s
  | .cp addr => Sys2Proof.Machine.execCp addr s
  | .cm addr => Sys2Proof.Machine.execCm addr s
  | .cz addr => Sys2Proof.Machine.execCz addr s
  | .cnz addr => Sys2Proof.Machine.execCnz addr s
  | .cpe addr => Sys2Proof.Machine.execCpe addr s
  | .cpo addr => Sys2Proof.Machine.execCpo addr s
  | .ret => Sys2Proof.Machine.execRet s
  | .rc => Sys2Proof.Machine.execRc s
  | .rnc => Sys2Proof.Machine.execRnc s
  | .rp => Sys2Proof.Machine.execRp s
  | .rm => Sys2Proof.Machine.execRm s
  | .rz => Sys2Proof.Machine.execRz s
  | .rnz => Sys2Proof.Machine.execRnz s
  | .rpe => Sys2Proof.Machine.execRpe s
  | .rpo => Sys2Proof.Machine.execRpo s
  | .pchl => Sys2Proof.Machine.execPchl s
  | .rst n => Sys2Proof.Machine.execRst n s
  -- Logical (43_logical.md)
  | .ana src => Sys2Proof.Machine.execAna src s
  | .xra src => Sys2Proof.Machine.execXra src s
  | .ora src => Sys2Proof.Machine.execOra src s
  | .cmp src => Sys2Proof.Machine.execCmp src s
  | .ani data => Sys2Proof.Machine.execAni data s
  | .xri data => Sys2Proof.Machine.execXri data s
  | .ori data => Sys2Proof.Machine.execOri data s
  | .cpi data => Sys2Proof.Machine.execCpi data s
  | .rlc => Sys2Proof.Machine.execRlc s
  | .rrc => Sys2Proof.Machine.execRrc s
  | .ral => Sys2Proof.Machine.execRal s
  | .rar => Sys2Proof.Machine.execRar s
  | .cma => Sys2Proof.Machine.execCma s
  | .cmc => Sys2Proof.Machine.execCmc s
  | .stc => Sys2Proof.Machine.execStc s
  -- Control (44_control.md)
  | .nop => Sys2Proof.Machine.execNop s
  | .hlt => Sys2Proof.Machine.execHlt s
  | .di => Sys2Proof.Machine.execDi s
  | .ei => Sys2Proof.Machine.execEi s
  | .rim => Sys2Proof.Machine.execRim s
  | .sim => Sys2Proof.Machine.execSim s
  -- The ten bytes no instruction is assigned to (30_encoding.md)
  | .undefined08 => Sys2Proof.Machine.execUndefined08 s
  | .undefined10 => Sys2Proof.Machine.execUndefined10 s
  | .undefined18 => Sys2Proof.Machine.execUndefined18 s
  | .undefined28 => Sys2Proof.Machine.execUndefined28 s
  | .undefined38 => Sys2Proof.Machine.execUndefined38 s
  | .undefinedCB => Sys2Proof.Machine.execUndefinedCB s
  | .undefinedD9 => Sys2Proof.Machine.execUndefinedD9 s
  | .undefinedDD => Sys2Proof.Machine.execUndefinedDD s
  | .undefinedED => Sys2Proof.Machine.execUndefinedED s
  | .undefinedFD => Sys2Proof.Machine.execUndefinedFD s

end Sys2Proof.Machine
end

