-- ==== Sys2Proof/Machine/Cycle.lean ====
section
/-! DEFINITION. The instruction cycle (10_state.md R24), the machine's top-level step (60_exceptions.md R266), and placing an
instruction where the next step fetches it. -/

namespace Sys2Proof.Machine

/-! ### Fetch -/

/-- `b <- MemRead(PC, 1); PC <- PC +16 1` (R24). -/
def State.fetchByte (s : State) : Byte × State :=
  let v := s.memRead s.pc
  (v.1, { v.2 with pc := s.pc + 1 })

/-- An operand byte if the instruction has one there, else 00H and no access. -/
def State.fetchIf (wanted : Bool) (s : State) : Byte × State :=
  if wanted then s.fetchByte else (0x00#8, s)

/-- Fetches all bytes of an instruction before it is executed, PC advanced past them (R24), and decodes them. -/
def State.fetchInstr (s : State) : Instr × State :=
  let op := s.fetchByte
  let b2 := op.2.fetchIf (decide (instrLength op.1 ≥ 2))
  let b3 := b2.2.fetchIf (decide (instrLength op.1 = 3))
  (decodeInstr op.1 b2.1 b3.1, b3.2)

/-! ### The step -/

/-- `EI_SHADOW <- 1 if that instruction was EI, else 0` (R266). -/
def State.closeShadow (i : Instr) (s : State) : State :=
  { s with ctl := { s.ctl with eiShadow := decide (i = Instr.ei) } }

/-- An instruction and what R266 does after it. -/
def State.runInstr (i : Instr) (s : State) : Host.Outcome State Fault Refusal :=
  match exec i s with
  | .next t => .next (t.closeShadow i)
  | .fault f => .fault f
  | .refused r => .refused r

/-- One step from the boundary on, the inputs having been presented: a reset event if the record holds one (R300, U16, log
15); else the highest-priority eligible interrupt; else nothing while halted; else one instruction (R266). -/
def State.boundaryStep (s : State) : Host.Outcome State Fault Refusal :=
  if s.env.pins.reset then .next s.resetEvent
  else
    match s.pending with
    | some x => s.takeInterrupt x
    | none =>
      if s.ctl.halted then .next s
      else s.fetchInstr.2.runInstr s.fetchInstr.1

/-- One step of the machine (R266). -/
def State.machineStep (s : State) : Host.Outcome State Fault Refusal := s.presentInputs.boundaryStep

/-! ### Placing an instruction -/

/-- The three addresses from PC on. -/
def State.codeAddresses (s : State) : List Word := [s.pc, s.pc + 1, s.pc + 2]

/-- Puts a byte in memory from outside the machine: whatever the map says, the contents become `v`. -/
def State.loadByte (a : Word) (v : Byte) (s : State) : State := { s with mem := Memory.write s.mem a.toNat v }

/-- Where PC does not point at three bytes of memory, maps them as RAM (log 20). -/
def State.mapCode (s : State) : State :=
  if s.codeAddresses.all s.holdsMemory then s
  else { s with env := { s.env with memMap := ⟨s.pc, 3, .ram⟩ :: s.env.memMap } }

/-- Makes the coming boundary one at which nothing is taken: a quiet record, HALTED 0, and EI_SHADOW 1 if a latched RST
7.5 would be taken (log 20). -/
def State.quietBoundary (s : State) : State :=
  { s with
    ctl := { s.ctl with
      halted := false
      eiShadow := s.ctl.eiShadow || s.eligible (.internal .rst75) }
    env := { s.env with schedule := EnvRecord.quiet :: s.env.schedule } }

/-- The instruction whose bits are the low `nbits` bits of `w` (first byte in bits 7 to 0), stored where the next step
fetches; the bits above `nbits`, up to three bytes, are 0 (log 20). -/
def State.placeFetchWord (s : State) (nbits w : Nat) : State :=
  let v := w % 2 ^ nbits
  let loaded := ((s.loadByte s.pc (BitVec.ofNat 8 v)).loadByte (s.pc + 1) (BitVec.ofNat 8 (v / 256))).loadByte
    (s.pc + 2) (BitVec.ofNat 8 (v / 65536))
  loaded.mapCode.quietBoundary

end Sys2Proof.Machine
end

