-- ==== Sys2Proof/Machine/Step.lean ====
section
/-! DEFINITION. The step of the machine (60_exceptions.md R266) and the placing of a fetched instruction, under the host's
names. -/

namespace Sys2Proof.Machine

/-- One step: an instruction, an interrupt entry, a reset event, or a wait in the halt state. -/
def step (s : State) : Host.Outcome State Fault Refusal := s.machineStep

/-- The state with an instruction stored where `step` fetches next, so that the next step runs exactly it (log 19, 20). -/
def State.withFetchWord (s : State) (nbits w : Nat) : State := s.placeFetchWord nbits w

end Sys2Proof.Machine
end

