-- ==== Sys2Proof/Safety.lean ====
section
/-! DEFINITION. The terms claims are stated in: how a run ends (70_reset_and_hazards.md R305), what a step may change, and
schedules with nothing requested. -/

namespace Sys2Proof.Safety

open Sys2Proof.Machine

/-! ### How a run ends -/

/-- The state under an environment that requests nothing once its schedule is used up: a quiet record is scheduled where none
is left. Without it the inputs past the schedule are free, and TRAP alone could end any halt (60_exceptions.md R264; log 29). -/
def quietTail (s : State) : State :=
  match s.env.schedule with
  | [] => { s with env := { s.env with schedule := [EnvRecord.quiet] } }
  | _ :: _ => s

/-- The step under that environment. -/
def quietStep (s : State) : Host.Outcome State Fault Refusal := step (quietTail s)

/-- `n` steps under that environment. -/
def quietRun (n : Nat) (s : State) : Host.Outcome State Fault Refusal :=
  match n with
  | 0 => .next s
  | k + 1 =>
    match quietStep s with
    | .next t => quietRun k t
    | .fault f => .fault f
    | .refused r => .refused r

/-- At the coming boundary a reset event or an eligible interrupt ends a halt (R269). -/
def wakes (s : State) : Bool := s.presentInputs.env.pins.reset || s.presentInputs.pending.isSome

/-- Nothing ends a halt at any of the next `n` boundaries of the schedule and its quiet tail, the latches following their
inputs from one to the next. -/
def sleepsFor (n : Nat) (s : State) : Bool :=
  match n with
  | 0 => true
  | k + 1 => !wakes (quietTail s) && sleepsFor k (quietTail s).presentInputs

/-- Outcome 1 of R305, decided: HALTED is 1 and the schedule presents no eligible interrupt (and no reset) from then on. One
quiet boundary past the schedule speaks for all that follow it (`sleepsFor_of_isFinal`). -/
def isFinal (s : State) : Bool := s.ctl.halted && sleepsFor (s.env.schedule.length + 1) s

/-- Outcome 1 of R305 where no quiet tail is assumed: at every later boundary, scheduled or free, the machine is halted still. -/
def HaltedForGood (s : State) : Prop := ∀ n, ∃ t, Host.Core.run Sys2Proof.core n s = .next t ∧ t.ctl.halted = true

/-- The outcomes of a run (R305): halted with no eligible interrupt to come, a fault, a refusal, or the step budget used up.
Only `halted` is a final state. -/
inductive RunEnd
  | halted (s : State)
  | fault (f : Fault)
  | refused (r : Refusal)
  | outOfFuel (s : State)
  deriving DecidableEq, Repr

/-- Runs under the schedule and its quiet tail until the machine is halted for good, it stops, or the fuel is gone (R305). -/
def runToEnd (fuel : Nat) (s : State) : RunEnd :=
  if isFinal s then .halted s
  else
    match fuel with
    | 0 => .outOfFuel s
    | n + 1 =>
      match quietStep s with
      | .next t => runToEnd n t
      | .fault f => .fault f
      | .refused r => .refused r

/-- A safe run of `n` steps: it meets no fault and no refusal. -/
def SafeFor (n : Nat) (s : State) : Prop := ∃ t, Host.Core.run Sys2Proof.core n s = .next t

/-- The state with `n` boundaries scheduled at which the environment requests nothing. -/
def quietFor (n : Nat) (s : State) : State :=
  { s with env := { s.env with schedule := List.replicate n EnvRecord.quiet } }

/-! ### What a boundary decides -/

/-- At the coming boundary no reset event comes, no interrupt is taken and the machine is not halted: the step runs an
instruction (60_exceptions.md R266). -/
def RunsInstruction (s : State) : Prop :=
  s.presentInputs.env.pins.reset = false ∧ s.presentInputs.pending = none ∧ s.ctl.halted = false

/-! ### What changes -/

/-- The parts of State a claim may except from "unchanged". -/
inductive Part
  | sp | pc | flags | ctl | memory | events
  deriving DecidableEq, Repr

/-- From `s` to `t` nothing changes but the registers and the parts named. Memory is compared byte by byte. -/
def ChangesOnly (rs : List Reg) (parts : List Part) (s t : State) : Prop :=
  (∀ r, r ∉ rs → t.reg r = s.reg r) ∧
  (Part.sp ∉ parts → t.sp = s.sp) ∧
  (Part.pc ∉ parts → t.pc = s.pc) ∧
  (Part.flags ∉ parts → t.flags = s.flags) ∧
  (Part.ctl ∉ parts → t.ctl = s.ctl) ∧
  (Part.memory ∉ parts → ∀ a : Nat, Memory.read t.mem a = Memory.read s.mem a) ∧
  (Part.events ∉ parts → t.events = s.events) ∧
  t.env = s.env

/-- The memory of `t` is that of `s` but for the bytes stored at these addresses, each where there is RAM (20_memory.md
R50): every other address reads as before. -/
def MemoryAfter (stores : List (Word × Byte)) (s t : State) : Prop :=
  ∀ a : Nat, Memory.read t.mem a =
    match stores.find? (fun c => decide (c.1.toNat = a) && decide (s.kindAt c.1 = .ram)) with
    | some c => c.2
    | none => Memory.read s.mem a

/-- Accesses to memory leave no event: if every address read holds memory and no address written is a device, the record is
as before (20_memory.md R56, R58). -/
def QuietAccesses (reads writes : List Word) (s t : State) : Prop :=
  (∀ a ∈ reads, s.holdsMemory a = true) → (∀ a ∈ writes, s.kindAt a ≠ .device) → t.events = s.events

/-- The value of an operand R or M (00_scope.md R7). -/
def operandValue (o : Operand) (s : State) : Byte :=
  match o with
  | .reg r => s.reg r
  | .m => s.byteAt s.hl

/-- The addresses read to get an operand. -/
def operandReads (o : Operand) (s : State) : List Word :=
  match o with
  | .reg _ => []
  | .m => [s.hl]

/-- The registers an operand is. -/
def operandRegs : Operand → List Reg
  | .reg r => [r]
  | .m => []

/-- Runs a list of instructions one after another, nothing fetched and no interrupt between them. -/
def execAll (is : List Instr) (s : State) : Host.Outcome State Fault Refusal :=
  match is with
  | [] => .next s
  | i :: rest =>
    match exec i s with
    | .next t => execAll rest t
    | .fault f => .fault f
    | .refused r => .refused r

/-- S, Z and P are those of the result `r` (10_state.md R25): bit 7; zero; an even number of 1 bits. -/
def SignZeroParityOf (r : Byte) (f : Flags) : Prop :=
  (f.s = true ↔ 128 ≤ r.toNat) ∧ (f.z = true ↔ r.toNat = 0) ∧
  (f.p = true ↔ Even ((List.range 8).countP (fun k => r.getLsbD k)))

/-! ### What each instruction writes -/

/-- Which flags an instruction writes. -/
inductive FlagUse
  | all | allButCarry | carryOnly | none
  deriving DecidableEq, Repr

/-- The "writes" column of 10_state.md R26. -/
def flagUse : Instr → FlagUse
  | .add _ | .adc _ | .sub _ | .sbb _ | .adi _ | .aci _ | .sui _ | .sbi _ | .cmp _ | .cpi _ | .daa | .popA => .all
  | .ana _ | .ani _ | .xra _ | .xri _ | .ora _ | .ori _ => .all
  | .inr _ | .dcr _ => .allButCarry
  | .dad _ | .rlc | .rrc | .ral | .rar | .cmc | .stc => .carryOnly
  | _ => .none

/-- The instructions with a write in the table of 20_memory.md R55. -/
def storesToMemory : Instr → Bool
  | .movMR _ | .mviM _ | .sta _ | .stax _ | .shld _ | .xthl | .inr .m | .dcr .m => true
  | .pushRp _ | .pushA | .call _ | .rst _ => true
  | .cc _ | .cnc _ | .cp _ | .cm _ | .cz _ | .cnz _ | .cpe _ | .cpo _ => true
  | _ => false

/-- The instructions that write SP (10_state.md R22). -/
def writesStackPointer : Instr → Bool
  | .sphl | .lxi .sp _ | .inx .sp | .dcx .sp | .pushRp _ | .pushA | .popRp _ | .popA => true
  | .call _ | .cc _ | .cnc _ | .cp _ | .cm _ | .cz _ | .cnz _ | .cpe _ | .cpo _ | .rst _ => true
  | .ret | .rc | .rnc | .rp | .rm | .rz | .rnz | .rpe | .rpo => true
  | _ => false

/-- The instructions that write PC beyond the fetch (10_state.md R23). -/
def writesProgramCounter : Instr → Bool
  | .jmp _ | .jc _ | .jnc _ | .jp _ | .jm _ | .jz _ | .jnz _ | .jpe _ | .jpo _ | .pchl => true
  | .call _ | .cc _ | .cnc _ | .cp _ | .cm _ | .cz _ | .cnz _ | .cpe _ | .cpo _ | .rst _ => true
  | .ret | .rc | .rnc | .rp | .rm | .rz | .rnz | .rpe | .rpo => true
  | _ => false

/-! ### What each instruction records -/

/-- The environment sees the event: a read where no memory is, a write to a device, and everything that is no access to an
address (20_memory.md R50, R56, R58). -/
def visible (s : State) : Event → Bool
  | .busRead a _ => !s.holdsMemory a
  | .busWrite a _ => decide (s.kindAt a = .device)
  | .portRead _ _ => true
  | .portWrite _ _ => true
  | .serialOut _ => true
  | .intAck _ => true

/-- The reads of two bytes, the lower address first. -/
def readsTwo (a : Word) (s : State) : List Event :=
  [.busRead a (s.byteAt a), .busRead (a + 1) ((s.afterRead a).byteAt (a + 1))]

/-- The writes of a push, the high-order byte first. -/
def writesPush (v : Word) (s : State) : List Event :=
  [.busWrite (s.sp - 1) (hiByte v), .busWrite (s.sp - 2) (loByte v)]

/-- The access of an operand that is read: none for a register, one for M. -/
def readsOperand (o : Operand) (s : State) : List Event :=
  match o with
  | .reg _ => []
  | .m => [.busRead s.hl (s.byteAt s.hl)]

/-- The accesses of an operand that is read, changed by `f` and written back: for M the read, then the write (D17). -/
def updatesOperand (o : Operand) (f : Byte → Byte) (s : State) : List Event :=
  match o with
  | .reg _ => []
  | .m => [.busRead s.hl (s.byteAt s.hl), .busWrite s.hl (f (s.byteAt s.hl))]

/-- The table of 20_memory.md R55: the data accesses of each instruction in order, with the byte each moves, and SIM's load of
SOD (44_control.md R245; log 14). -/
def recordedBy (i : Instr) (s : State) : List Event :=
  match i with
  | .movRM _ => readsOperand .m s
  | .movMR r => [.busWrite s.hl (s.reg r)]
  | .mviM v => [.busWrite s.hl v]
  | .lda a => [.busRead a (s.byteAt a)]
  | .ldax p => [.busRead (s.pair p) (s.byteAt (s.pair p))]
  | .lhld a => readsTwo a s
  | .sta a => [.busWrite a (s.reg .a)]
  | .stax p => [.busWrite (s.pair p) (s.reg .a)]
  | .shld a => [.busWrite a (s.reg .l), .busWrite (a + 1) (s.reg .h)]
  | .xthl => readsTwo s.sp s ++ [.busWrite (s.sp + 1) (s.reg .h), .busWrite s.sp (s.reg .l)]
  | .pushRp p => writesPush (s.pair p) s
  | .pushA => writesPush (wordOf (s.reg .a) (s.flags.toByte (Config.pswSpareBits s.history))) s
  | .popRp _ => readsTwo s.sp s
  | .popA => readsTwo s.sp s
  | .outPort p => [.portWrite p (s.reg .a)]
  | .inPort p => [.portRead p (s.portByte p)]
  | .add o => readsOperand o s
  | .adc o => readsOperand o s
  | .sub o => readsOperand o s
  | .sbb o => readsOperand o s
  | .inr o => updatesOperand o (fun v => v + 1) s
  | .dcr o => updatesOperand o (fun v => v - 1) s
  | .call _ => writesPush s.pc s
  | .cc _ => if s.flags.cy then writesPush s.pc s else []
  | .cnc _ => if s.flags.cy then [] else writesPush s.pc s
  | .cp _ => if s.flags.s then [] else writesPush s.pc s
  | .cm _ => if s.flags.s then writesPush s.pc s else []
  | .cz _ => if s.flags.z then writesPush s.pc s else []
  | .cnz _ => if s.flags.z then [] else writesPush s.pc s
  | .cpe _ => if s.flags.p then writesPush s.pc s else []
  | .cpo _ => if s.flags.p then [] else writesPush s.pc s
  | .ret => readsTwo s.sp s
  | .rc => if s.flags.cy then readsTwo s.sp s else []
  | .rnc => if s.flags.cy then [] else readsTwo s.sp s
  | .rp => if s.flags.s then [] else readsTwo s.sp s
  | .rm => if s.flags.s then readsTwo s.sp s else []
  | .rz => if s.flags.z then readsTwo s.sp s else []
  | .rnz => if s.flags.z then [] else readsTwo s.sp s
  | .rpe => if s.flags.p then readsTwo s.sp s else []
  | .rpo => if s.flags.p then [] else readsTwo s.sp s
  | .rst _ => writesPush s.pc s
  | .ana o => readsOperand o s
  | .xra o => readsOperand o s
  | .ora o => readsOperand o s
  | .cmp o => readsOperand o s
  | .sim => if (s.reg .a).getLsbD 6 then [.serialOut ((s.reg .a).getLsbD 7)] else []
  | .movRR _ _ | .mviR _ _ | .lxi _ _ | .xchg | .sphl | .adi _ | .aci _ | .sui _ | .sbi _ | .dad _ | .inx _ | .dcx _
  | .daa | .jmp _ | .jc _ | .jnc _ | .jp _ | .jm _ | .jz _ | .jnz _ | .jpe _ | .jpo _ | .pchl | .ani _ | .xri _ | .ori _
  | .cpi _ | .rlc | .rrc | .ral | .rar | .cma | .cmc | .stc | .nop | .hlt | .di | .ei | .rim | .undefined08
  | .undefined10 | .undefined18 | .undefined28 | .undefined38 | .undefinedCB | .undefinedD9 | .undefinedDD | .undefinedED
  | .undefinedFD => []

/-! ### What an instruction does -/

/-- The instruction adds `v` and the carry `c` to A with all five flags (41_arithmetic.md R140), reads the addresses in
`reads`, and changes nothing else. -/
def AddsToA (i : Instr) (v : Byte) (c : Nat) (reads : List Word) (s : State) : Prop :=
  ∃ t, exec i s = .next t ∧
    (t.reg .a).toNat = ((s.reg .a).toNat + v.toNat + c) % 256 ∧
    (t.flags.cy = true ↔ 256 ≤ (s.reg .a).toNat + v.toNat + c) ∧
    (t.flags.ac = true ↔ 16 ≤ (s.reg .a).toNat % 16 + v.toNat % 16 + c) ∧
    SignZeroParityOf (t.reg .a) t.flags ∧
    ChangesOnly [.a] [.flags, .events] s t ∧ QuietAccesses reads [] s t

/-- The flags `f` are those of the subtraction `a - v - b`: CY a borrow, AC set when no borrow from bit 4 was needed, S, Z,
P of the difference `r` (R141). -/
def FlagsOfDifference (a v : Byte) (b : Nat) (r : Byte) (f : Flags) : Prop :=
  (f.cy = true ↔ a.toNat < v.toNat + b) ∧ (f.ac = true ↔ v.toNat % 16 + b ≤ a.toNat % 16) ∧ SignZeroParityOf r f

/-- The instruction subtracts `v` and the borrow `b` from A with all five flags (R141), and changes nothing else. -/
def SubtractsFromA (i : Instr) (v : Byte) (b : Nat) (reads : List Word) (s : State) : Prop :=
  ∃ t, exec i s = .next t ∧
    ((t.reg .a).toNat : Int) = ((s.reg .a).toNat - v.toNat - b : Int) % 256 ∧
    FlagsOfDifference (s.reg .a) v b (t.reg .a) t.flags ∧
    ChangesOnly [.a] [.flags, .events] s t ∧ QuietAccesses reads [] s t

/-- The instruction compares A with `v`: the flags of `A - v`, nothing else (43_logical.md R210). -/
def ComparesWithA (i : Instr) (v : Byte) (reads : List Word) (s : State) : Prop :=
  ∃ t, exec i s = .next t ∧
    (t.flags.cy = true ↔ (s.reg .a).toNat < v.toNat) ∧ (t.flags.z = true ↔ s.reg .a = v) ∧
    FlagsOfDifference (s.reg .a) v 0 (s.reg .a - v) t.flags ∧
    ChangesOnly [] [.flags, .events] s t ∧ QuietAccesses reads [] s t

/-- The instruction puts in A the byte whose bit k is `f` of bit k of A and of `v`; S, Z, P are the result's, CY is reset
and AC is `ac` (43_logical.md R212 to R217). -/
def CombinesWithA (i : Instr) (f : Bool → Bool → Bool) (v : Byte) (ac : Bool) (reads : List Word) (s : State) : Prop :=
  ∃ t, exec i s = .next t ∧
    (∀ k, k < 8 → (t.reg .a).getLsbD k = f ((s.reg .a).getLsbD k) (v.getLsbD k)) ∧
    SignZeroParityOf (t.reg .a) t.flags ∧ t.flags.cy = false ∧ t.flags.ac = ac ∧
    ChangesOnly [.a] [.flags, .events] s t ∧ QuietAccesses reads [] s t

/-- The instruction rotates A to the number `a` and sets CY to `c`; no other flag and nothing else changes (R218 to R221). -/
def RotatesA (i : Instr) (a : Nat) (c : Bool) (s : State) : Prop :=
  ∃ t, exec i s = .next t ∧ (t.reg .a).toNat = a ∧ t.flags = { s.flags with cy := c } ∧
    ChangesOnly [.a] [.flags] s t

/-- The instruction goes to `target` if `taken`, else to the next instruction; nothing else changes (42_branching.md R171 to
R179, R198). -/
def JumpsIf (taken : Bool) (i : Instr) (target : Word) (s : State) : Prop :=
  ∃ t, exec i s = .next t ∧ t.pc = (if taken then target else s.pc) ∧ ChangesOnly [] [.pc] s t

/-- The instruction, if `taken`, pushes PC, high-order byte first, and goes to `target`; else nothing changes (R180 to R188,
R199). -/
def CallsIf (taken : Bool) (i : Instr) (target : Word) (s : State) : Prop :=
  ∃ t, exec i s = .next t ∧
    (taken = false → t = s) ∧
    (taken = true →
      t.pc = target ∧ t.sp = s.sp - 2 ∧
      MemoryAfter [(s.sp - 2, loByte s.pc), (s.sp - 1, hiByte s.pc)] s t ∧
      ChangesOnly [] [.pc, .sp, .memory, .events] s t ∧ QuietAccesses [] [s.sp - 1, s.sp - 2] s t)

/-- The instruction, if `taken`, pops PC, low-order byte first; else nothing changes (R189 to R197). -/
def ReturnsIf (taken : Bool) (i : Instr) (s : State) : Prop :=
  ∃ t, exec i s = .next t ∧
    (taken = false → t = s) ∧
    (taken = true →
      loByte t.pc = s.byteAt s.sp ∧ hiByte t.pc = (s.afterRead s.sp).byteAt (s.sp + 1) ∧ t.sp = s.sp + 2 ∧
      ChangesOnly [] [.pc, .sp, .events] s t ∧ QuietAccesses [s.sp, s.sp + 1] [] s t)

end Sys2Proof.Safety
end

