-- ==== Sys2Proof/Certificates/Slice0/Obligations.lean ====
section
/-! DEFINITION. The statements for the provers. A clause that rests on a decision of 92_eei_decisions.md (D) or on a log entry
says so in its docstring; every opcode pattern rests on D1, every "no flag" the source does not state on G9. -/

open Sys2Proof Sys2Proof.Machine Sys2Proof.Safety

/-! ### Encoding -/

/-- Decoding what the encoder writes gives the instruction back, whatever bytes follow: no operand bit is dropped
(30_encoding.md R80 to R87; the patterns are D1, the order of operand bytes D4). -/
def Obligations.DecodeInvertsEncode : Prop :=
  ∀ (i : Instr) (rest : List Byte), i.wellFormed = true → decode (encode i ++ rest) = .ok (i, rest)

/-- Whatever the decoder answers is a well-formed instruction, and the bytes it took are that instruction's encoding: each
string of bytes has one meaning (R80, R87, R89; D1). -/
def Obligations.EncodeInvertsDecode : Prop :=
  ∀ (bytes : List Byte) (i : Instr) (rest : List Byte),
    decode bytes = .ok (i, rest) → i.wellFormed = true ∧ bytes = encode i ++ rest

/-- Words written out from the spec's table decode to the instructions they stand for (R87; D1): MOV B,C; MVI M,57H;
LXI SP,20FFH; SHLD 2470H; PUSH A; POP H; IN 8CH; SBB L; DAD SP; INR M; JPO 2034H; CM 2034H; RPE; RST 5; CMP M; CPI 89H; RAR;
HLT; SIM; the unassigned DDH. -/
def Obligations.DecoderReadsSampleWords : Prop :=
  decodeTableWord 8 0b01000001 = some (.movRR .b .c) ∧
  decodeTableWord 16 0b01010111_00110110 = some (.mviM 0x57#8) ∧
  decodeTableWord 24 0b00100000_11111111_00110001 = some (.lxi .sp 0x20FF#16) ∧
  decodeTableWord 24 0b00100100_01110000_00100010 = some (.shld 0x2470#16) ∧
  decodeTableWord 8 0b11110101 = some .pushA ∧
  decodeTableWord 8 0b11100001 = some (.popRp .hl) ∧
  decodeTableWord 16 0b10001100_11011011 = some (.inPort 0x8C#8) ∧
  decodeTableWord 8 0b10011101 = some (.sbb (.reg .l)) ∧
  decodeTableWord 8 0b00111001 = some (.dad .sp) ∧
  decodeTableWord 8 0b00110100 = some (.inr .m) ∧
  decodeTableWord 24 0b00100000_00110100_11100010 = some (.jpo 0x2034#16) ∧
  decodeTableWord 24 0b00100000_00110100_11111100 = some (.cm 0x2034#16) ∧
  decodeTableWord 8 0b11101000 = some .rpe ∧
  decodeTableWord 8 0b11101111 = some (.rst 5#3) ∧
  decodeTableWord 8 0b10111110 = some (.cmp .m) ∧
  decodeTableWord 16 0b10001001_11111110 = some (.cpi 0x89#8) ∧
  decodeTableWord 8 0b00011111 = some .rar ∧
  decodeTableWord 8 0b01110110 = some .hlt ∧
  decodeTableWord 8 0b00110000 = some .sim ∧
  decodeTableWord 8 0b11011101 = some .undefinedDD

/-! ### The step -/

/-- When the boundary takes no reset and no interrupt and the machine is not halted, and the bytes of a well-formed
instruction stand in memory at PC, the step is that instruction's meaning at the state with the inputs presented and PC past
the instruction; EI_SHADOW then says whether it was EI (10_state.md R24, 60_exceptions.md R266; D22). -/
def Obligations.StepRunsDecodedInstruction : Prop :=
  ∀ (i : Instr) (s : State), i.wellFormed = true → RunsInstruction s →
    (∀ (k : Nat) (h : k < (encode i).length),
      s.holdsMemory (s.pc + BitVec.ofNat 16 k) = true ∧ s.byteAt (s.pc + BitVec.ofNat 16 k) = (encode i)[k]) →
    step s =
      match exec i { s.presentInputs with pc := s.pc + BitVec.ofNat 16 (encode i).length } with
      | .next t => .next { t with ctl := { t.ctl with eiShadow := decide (i = Instr.ei) } }
      | .fault f => .fault f
      | .refused r => .refused r

/-- A fetch, wherever PC points and whatever is there: the instruction's bytes are read one after another at PC, PC+1, PC+2
(mod 65536), and nothing changes but PC, past them, and the event record (R24, 20_memory.md R52, R54; D5, D38). -/
def Obligations.FetchReadsAndAdvances : Prop :=
  ∀ (s : State), ∃ (i : Instr) (u : State), s.fetchInstr = (i, u) ∧ i.wellFormed = true ∧
    (encode i)[0]? = some (s.byteAt s.pc) ∧
    (∀ v, (encode i)[1]? = some v → v = (s.afterRead s.pc).byteAt (s.pc + 1)) ∧
    (∀ v, (encode i)[2]? = some v → v = ((s.afterRead s.pc).afterRead (s.pc + 1)).byteAt (s.pc + 2)) ∧
    u.pc = s.pc + BitVec.ofNat 16 (encode i).length ∧
    ChangesOnly [] [.pc, .events] s u ∧
    QuietAccesses ([s.pc, s.pc + 1, s.pc + 2].take (encode i).length) [] s u

/-- While halted with no eligible interrupt and no reset, a step changes no register, flag, byte of memory or control state,
only that the latches follow their inputs (44_control.md R241, 10_state.md R32; D26). -/
def Obligations.HaltWaits : Prop :=
  ∀ (s : State), s.ctl.halted = true → s.presentInputs.env.pins.reset = false → s.presentInputs.pending = none →
    ∃ t, step s = .next t ∧ t.regs = s.regs ∧ t.sp = s.sp ∧ t.pc = s.pc ∧ t.flags = s.flags ∧ t.mem = s.mem ∧
      t.events = s.events ∧
      t.ctl = { s.ctl with
        i75 := s.ctl.i75 || s.nextRecord.irq.r75Rise
        trapFF := s.ctl.trapFF || s.nextRecord.irq.trapRise }

/-- Which source is taken at a boundary, from the latches, levels, masks, IE and EI_SHADOW: the first eligible in the order
TRAP, RST 7.5, RST 6.5, RST 5.5, INTR (60_exceptions.md R263, R265; D20 to D22). -/
def Obligations.PendingFollowsPriority : Prop :=
  ∀ (s : State), s.pending =
    if s.ctl.trapFF = true ∧ s.env.pins.irq.trapLevel = true then some (.internal .trap)
    else if s.ctl.ie = false ∨ s.ctl.eiShadow = true then none
    else if s.ctl.i75 = true ∧ s.ctl.m75 = false then some (.internal .rst75)
    else if s.env.pins.irq.r65Level = true ∧ s.ctl.m65 = false then some (.internal .rst65)
    else if s.env.pins.irq.r55Level = true ∧ s.ctl.m55 = false then some (.internal .rst55)
    else if s.env.pins.irq.intrLevel = true then some .intr
    else none

/-- Entry of TRAP, RST 7.5, RST 6.5 and RST 5.5 as a step: PC is pushed, high-order byte first, and control goes to 0024H,
003CH, 0034H or 002CH; IE, HALTED and EI_SHADOW are cleared; TRAP saves IE, arms RIM and clears its latch, RST 7.5 clears its
own; no register, flag or mask changes (60_exceptions.md R267; D23, D25). -/
def Obligations.InternalInterruptEntry : Prop :=
  ∀ (s : State) (x : Internal), s.presentInputs.env.pins.reset = false →
    s.presentInputs.pending = some (.internal x) →
    ∃ t, step s = .next t ∧
      t.pc = (match x with
        | .trap => 0x0024#16
        | .rst75 => 0x003C#16
        | .rst65 => 0x0034#16
        | .rst55 => 0x002C#16) ∧
      t.sp = s.sp - 2 ∧
      MemoryAfter [(s.sp - 2, loByte s.pc), (s.sp - 1, hiByte s.pc)] s t ∧
      t.ctl =
        { ie := false, halted := false, eiShadow := false
          m75 := s.ctl.m75, m65 := s.ctl.m65, m55 := s.ctl.m55, sod := s.ctl.sod
          i75 := (s.ctl.i75 || s.nextRecord.irq.r75Rise) && decide (x ≠ .rst75)
          trapFF := (s.ctl.trapFF || s.nextRecord.irq.trapRise) && decide (x ≠ .trap)
          trapIeSaved := if x = .trap then s.ctl.ie else s.ctl.trapIeSaved
          trapRimArmed := s.ctl.trapRimArmed || decide (x = .trap) } ∧
      ChangesOnly [] [.pc, .sp, .memory, .ctl, .events] s.presentInputs t ∧
      QuietAccesses [] [s.sp - 1, s.sp - 2] s t

/-- Entry of INTR as a step: an inserted RST n or CALL a16 pushes PC, which its bytes do not advance, and goes to 8n or a16;
IE, HALTED and EI_SHADOW are cleared; the acknowledge is recorded (log 14). Anything else inserted is refused (R262, R268; D24,
log 16). -/
def Obligations.IntrEntry : Prop :=
  ∀ (s : State), s.presentInputs.env.pins.reset = false → s.presentInputs.pending = some .intr →
    let b := s.presentInputs.intaBytes
    let entered (target : Word) : Prop := ∃ t, step s = .next t ∧
      t.pc = target ∧ t.sp = s.sp - 2 ∧
      MemoryAfter [(s.sp - 2, loByte s.pc), (s.sp - 1, hiByte s.pc)] s t ∧
      t.ctl = { s.presentInputs.ctl with ie := false, halted := false, eiShadow := false } ∧
      ChangesOnly [] [.pc, .sp, .memory, .ctl, .events] s.presentInputs t ∧
      (s.kindAt (s.sp - 1) ≠ .device → s.kindAt (s.sp - 2) ≠ .device → t.events = s.events ++ [.intAck b])
    (∀ n : BitVec 3, b.byte1 = 0xC7#8 + 8#8 * n.setWidth 8 → entered (8#16 * n.setWidth 16)) ∧
    (b.byte1 = 0xCD#8 → entered (wordOf b.byte3 b.byte2)) ∧
    ((∀ n : BitVec 3, b.byte1 ≠ 0xC7#8 + 8#8 * n.setWidth 8) → b.byte1 ≠ 0xCD#8 →
      step s = .refused (.intaInstruction b))

/-- After a step that runs EI, IE is set at once, and at the boundary that follows no maskable source is taken: only TRAP can
be (44_control.md R243, 60_exceptions.md R266; D22, D39). -/
def Obligations.EiDelaysRecognition : Prop :=
  ∀ (s t : State), RunsInstruction s → s.presentInputs.fetchInstr.1 = .ei → step s = .next t →
    t.ctl.ie = true ∧
    (t.presentInputs.pending = none ∨ t.presentInputs.pending = some (.internal .trap))

/-- IE goes from 0 to 1 only by a step that runs EI (10_state.md R28, 60_exceptions.md R263). -/
def Obligations.OnlyEiSetsInterruptEnable : Prop :=
  ∀ (s t : State), step s = .next t → s.ctl.ie = false → t.ctl.ie = true →
    RunsInstruction s ∧ s.presentInputs.fetchInstr.1 = .ei

/-- A rising edge on RST 7.5 that cannot be taken at its boundary (masked, IE = 0 or the EI shadow) is remembered after the
step, whatever the step does, but for a reset and for the one instruction that clears the latch: a SIM that is run with bit 4
of A set (R264, 10_state.md R30, 44_control.md R245; D20). -/
def Obligations.BlockedEdgeIsRemembered : Prop :=
  ∀ (s t : State), step s = .next t → s.presentInputs.env.pins.reset = false → s.nextRecord.irq.r75Rise = true →
    (s.ctl.m75 = true ∨ s.ctl.ie = false ∨ s.ctl.eiShadow = true) →
    ¬(RunsInstruction s ∧ s.presentInputs.fetchInstr.1 = .sim ∧ (s.reg .a).getLsbD 4 = true) →
    t.ctl.i75 = true

/-- The first RIM after a TRAP was taken reports at bit 3 the IE of the interrupted program, the second the IE that entry
cleared (10_state.md R34; D25). -/
def Obligations.RimAfterTrapReportsSavedEnable : Prop :=
  ∀ (s t : State), s.presentInputs.env.pins.reset = false → s.presentInputs.pending = some (.internal .trap) →
    step s = .next t →
    ∃ u v, exec .rim t = .next u ∧ (u.reg .a).getLsbD 3 = s.ctl.ie ∧
      exec .rim u = .next v ∧ (v.reg .a).getLsbD 3 = false

/-- The return from an interrupt: RET run where an internal interrupt's entry left the stack, in RAM, goes back to the
instruction that was interrupted, with SP as it was and IE still 0 (60_exceptions.md R270, R267; D16, D23). -/
def Obligations.RetUndoesInterruptEntry : Prop :=
  ∀ (s t : State) (x : Internal), s.presentInputs.env.pins.reset = false →
    s.presentInputs.pending = some (.internal x) →
    s.kindAt (s.sp - 1) = .ram → s.kindAt (s.sp - 2) = .ram → step s = .next t →
    ∃ u, exec .ret t = .next u ∧ u.pc = s.pc ∧ u.sp = s.sp ∧ u.regs = s.regs ∧ u.flags = s.flags ∧ u.ctl.ie = false

/-- What every step does with the environment's side: the map stays; the boundary is counted; the record presented is the one
R264 names, taken off the schedule; events are only added (60_exceptions.md R264, 20_memory.md R58; the fields are the
model's, log 9, 14, 23). -/
def Obligations.StepAdvancesEnvironment : Prop :=
  ∀ (s t : State), step s = .next t →
    t.env.memMap = s.env.memMap ∧ t.env.boundary = s.env.boundary + 1 ∧ t.env.pins = s.nextRecord ∧
    t.env.schedule = s.env.schedule.tail ∧ ∃ es, t.events = s.events ++ es

/-! ### Faults, refusals, invariants -/

/-- Each of the ten unassigned bytes is the encoding of its own row, and its meaning is the fault, with the byte and the address
it was fetched from (30_encoding.md R88, 60_exceptions.md R260; the fault is the spec's decision D2, log 17). -/
def Obligations.UndefinedBytesFault : Prop :=
  ∀ (s : State), ∀ x ∈ [(Instr.undefined08, 0x08#8), (.undefined10, 0x10#8), (.undefined18, 0x18#8), (.undefined28, 0x28#8),
      (.undefined38, 0x38#8), (.undefinedCB, 0xCB#8), (.undefinedD9, 0xD9#8), (.undefinedDD, 0xDD#8), (.undefinedED, 0xED#8),
      (.undefinedFD, 0xFD#8)],
    encode x.1 = [x.2] ∧ exec x.1 s = .fault (.undefinedOpcode x.2 (s.pc - 1))

/-- A step faults only by fetching one of the ten unassigned bytes: no address, alignment, stack, privilege or arithmetic
fault exists (60_exceptions.md R260, R88; D2, D33). -/
def Obligations.FaultsOnlyFromUndefinedBytes : Prop :=
  ∀ (s : State) (f : Fault), step s = .fault f →
    RunsInstruction s ∧
    f = .undefinedOpcode (s.presentInputs.byteAt s.pc) s.pc ∧
    s.presentInputs.byteAt s.pc ∈
      [0x08#8, 0x10#8, 0x18#8, 0x28#8, 0x38#8, 0xCB#8, 0xD9#8, 0xDD#8, 0xED#8, 0xFD#8]

/-- A step is refused only at an acknowledge of INTR whose inserted bytes are neither RST n nor CALL (R262, R268, R305; D24,
log 16). -/
def Obligations.RefusalsOnlyFromInsertedInstructions : Prop :=
  ∀ (s : State) (r : Refusal), step s = .refused r →
    s.presentInputs.pending = some .intr ∧ r = .intaInstruction s.presentInputs.intaBytes ∧
    ∀ n a, decodeInstr s.presentInputs.intaBytes.byte1 s.presentInputs.intaBytes.byte2 s.presentInputs.intaBytes.byte3 ≠ .rst n ∧
      decodeInstr s.presentInputs.intaBytes.byte1 s.presentInputs.intaBytes.byte2 s.presentInputs.intaBytes.byte3 ≠ .call a

/-- Every step keeps memory in its canonical form, whatever the instruction or interrupt (the model's invariant; 20_memory.md
R50, log 5). -/
def Obligations.StepKeepsMemoryCanonical : Prop :=
  ∀ (s t : State), Memory.wf s.mem = true → step s = .next t → Memory.wf t.mem = true

/-- Every step keeps this: EI_SHADOW is 1 only while IE is 1 (10_state.md R28, R33; D22). -/
def Obligations.StepKeepsShadowUnderEnable : Prop :=
  ∀ (s t : State), (s.ctl.eiShadow = true → s.ctl.ie = true) → step s = .next t →
    (t.ctl.eiShadow = true → t.ctl.ie = true)

/-- The state after reset: the values 10_state.md R38 gives (D27), and both invariants. -/
def Obligations.ResetState : Prop :=
  State.reset.pc = 0x0000#16 ∧
  State.reset.ctl =
    { ie := false, m75 := true, m65 := true, m55 := true, i75 := false, trapFF := false, sod := false
      halted := false, eiShadow := false, trapIeSaved := State.reset.ctl.trapIeSaved, trapRimArmed := false } ∧
  Memory.wf State.reset.mem = true ∧ (State.reset.ctl.eiShadow = true → State.reset.ctl.ie = true)

/-- A reset event at a boundary, whatever the machine is doing: the fixed values, memory and the record of events kept, no
interrupt taken (70_reset_and_hazards.md R300; D27). Two clauses are the model's choice: that it lands at a boundary (log 15), and
that TRAP_IE_SAVED, which R300 does not name, is kept (log 4, log 15). -/
def Obligations.ResetEvent : Prop :=
  ∀ (s : State), s.presentInputs.env.pins.reset = true →
    ∃ t, step s = .next t ∧ t.pc = 0x0000#16 ∧
      t.ctl =
        { ie := false, m75 := true, m65 := true, m55 := true, i75 := false, trapFF := false, sod := false
          halted := false, eiShadow := false, trapIeSaved := s.ctl.trapIeSaved, trapRimArmed := false } ∧
      t.mem = s.mem ∧ t.events = s.events ∧ t.env = s.presentInputs.env

/-! ### What no instruction of a class changes -/

/-- Which instructions write flags: ADD to SBI, DAA, CMP, CPI, the logic and POP A all five; INR and DCR all but CY; DAD, the
rotates, CMC and STC only CY; every other instruction none (10_state.md R26; D9, D10, D12, G9). -/
def Obligations.FlagsChangeOnlyWhereListed : Prop :=
  ∀ (i : Instr) (s t : State), exec i s = .next t →
    (flagUse i = .none → t.flags = s.flags) ∧
    (flagUse i = .carryOnly → t.flags = { s.flags with cy := t.flags.cy }) ∧
    (flagUse i = .allButCarry → t.flags.cy = s.flags.cy)

/-- Which instructions write the control state: HLT, DI, EI, RIM, SIM, each its own part; every other instruction none, RST and
RET among them (10_state.md R28 to R34, 42_branching.md R199). -/
def Obligations.ControlStateChangesOnlyWhereListed : Prop :=
  ∀ (i : Instr) (s t : State), exec i s = .next t →
    (i ∉ [Instr.hlt, .di, .ei, .rim, .sim] → t.ctl = s.ctl) ∧
    (i = .hlt → t.ctl = { s.ctl with halted := t.ctl.halted }) ∧
    (i = .di ∨ i = .ei → t.ctl = { s.ctl with ie := t.ctl.ie, eiShadow := t.ctl.eiShadow }) ∧
    (i = .rim → t.ctl = { s.ctl with trapRimArmed := t.ctl.trapRimArmed }) ∧
    (i = .sim → t.ctl =
      { s.ctl with m75 := t.ctl.m75, m65 := t.ctl.m65, m55 := t.ctl.m55, i75 := t.ctl.i75, sod := t.ctl.sod })

/-- Which instructions store to memory: no other changes any byte (20_memory.md R55). -/
def Obligations.MemoryChangesOnlyWhereListed : Prop :=
  ∀ (i : Instr) (s t : State), exec i s = .next t → storesToMemory i = false →
    ∀ a, Memory.read t.mem a = Memory.read s.mem a

/-- Which instructions write SP (10_state.md R22) and which write PC beyond the fetch (R23): no other changes it. -/
def Obligations.StackPointerAndCounterChangeOnlyWhereListed : Prop :=
  ∀ (i : Instr) (s t : State), exec i s = .next t →
    (writesStackPointer i = false → t.sp = s.sp) ∧ (writesProgramCounter i = false → t.pc = s.pc)

/-! ### Memory and the stack -/

/-- A byte written to RAM is read back, and no other address reads otherwise; ROM and unpopulated addresses ignore a write; no
write ever changes a register, a flag, SP, PC or the control state (20_memory.md R50; D30, log 7). -/
def Obligations.WritesReachOnlyRam : Prop :=
  ∀ (s : State) (a : Word) (v : Byte),
    (s.kindAt a = .ram → (s.memWrite a v).byteAt a = v) ∧
    (s.kindAt a = .rom ∨ s.kindAt a = .unpopulated → s.memWrite a v = s) ∧
    (∀ b, b ≠ a → s.holdsMemory b = true → (s.memWrite a v).byteAt b = s.byteAt b) ∧
    ChangesOnly [] [.memory, .events] s (s.memWrite a v)

/-- The accesses of every instruction and of every interrupt entry to addresses that hold no memory, and its port transfers, are
events in the order of the table of 20_memory.md R55, each with the byte it moves, and there are no others; a device ignores no
write and stops nothing; a load returns the byte recorded (R50, R56, R58, R55; the order within XTHL, INR M and DCR M is D17, of
the pushed return address D16). That reads and loads of SOD are recorded, and an INTR acknowledge before its pushes, is the
model's choice (D30, log 7, 8, 14); the byte a port or an unpopulated or device address presents, and PUSH A's spare bits, are
free (log 7, 8, 10, 13). -/
def Obligations.DeviceAccessesAreRecorded : Prop :=
  (∀ (i : Instr) (s t : State), exec i s = .next t → t.events = s.events ++ (recordedBy i s).filter (visible s)) ∧
  (∀ (s t : State) (x : Source), s.presentInputs.env.pins.reset = false → s.presentInputs.pending = some x →
    step s = .next t →
    t.events = s.events ++ ((match x with
      | .internal _ => []
      | .intr => [.intAck s.presentInputs.intaBytes]) ++
      [.busWrite (s.sp - 1) (hiByte s.pc), .busWrite (s.sp - 2) (loByte s.pc)]).filter (visible s)) ∧
  (∀ (s : State) (a : Word),
    (s.kindAt a = .device →
      exec (.sta a) s = .next { s with events := s.events ++ [.busWrite a (s.reg .a)] }) ∧
    (s.kindAt a = .device ∨ s.kindAt a = .unpopulated →
      ∃ t, exec (.lda a) s = .next t ∧ t.events = s.events ++ [.busRead a (t.reg .a)] ∧
        ChangesOnly [.a] [.events] s t))

/-- The stack helpers, in RAM: after a push SP is 2 less, the word lies low-order byte at SP and high-order byte at SP+1, no
other byte changed; a pop then returns it and restores SP (00_scope.md R11). -/
def Obligations.PushThenPop : Prop :=
  ∀ (v : Word) (s : State), s.kindAt (s.sp - 1) = .ram → s.kindAt (s.sp - 2) = .ram →
    (s.push16 v).sp = s.sp - 2 ∧
    MemoryAfter [(s.sp - 2, v.extractLsb' 0 8), (s.sp - 1, v.extractLsb' 8 8)] s (s.push16 v) ∧
    ChangesOnly [] [.sp, .memory] s (s.push16 v) ∧
    (s.push16 v).pop16.1 = v ∧ (s.push16 v).pop16.2 = { s.push16 v with sp := s.sp }

/-! ### Data transfer -/

/-- MOV Rd, Rs and MVI Rd, data (40_data_transfer.md R110, R113): Rd gets Rs, or the data; nothing else changes, and nothing at
all where Rd is Rs. -/
def Obligations.RegisterMovesAndImmediates : Prop :=
  ∀ (dst : Reg) (s : State),
    (∀ src : Reg, encode (.movRR dst src) = [0x40#8 + 8#8 * dst.code.setWidth 8 + src.code.setWidth 8] ∧
      ∃ t, exec (.movRR dst src) s = .next t ∧ t.reg dst = s.reg src ∧ (dst = src → t = s) ∧ ChangesOnly [dst] [] s t) ∧
    (∀ v : Byte, encode (.mviR dst v) = [0x06#8 + 8#8 * dst.code.setWidth 8, v] ∧
      ∃ t, exec (.mviR dst v) s = .next t ∧ t.reg dst = v ∧ ChangesOnly [dst] [] s t)

/-- MOV Rd, M (R111): Rd gets the byte at the HL of before, Rd = H and Rd = L included. -/
def Obligations.MovMemoryToRegister : Prop :=
  ∀ (dst : Reg) (s : State),
    encode (.movRM dst) = [0x46#8 + 8#8 * dst.code.setWidth 8] ∧
    ∃ t, exec (.movRM dst) s = .next t ∧ t.reg dst = s.byteAt (wordOf (s.reg .h) (s.reg .l)) ∧
      ChangesOnly [dst] [.events] s t ∧ QuietAccesses [wordOf (s.reg .h) (s.reg .l)] [] s t

/-- MOV M, Rs and MVI M, data (R112, R114): the byte is stored at HL; no register changes. -/
def Obligations.StoresToM : Prop :=
  ∀ (s : State), ∀ a, a = wordOf (s.reg .h) (s.reg .l) →
    (∀ r : Reg, encode (.movMR r) = [0x70#8 + r.code.setWidth 8] ∧
      ∃ t, exec (.movMR r) s = .next t ∧ MemoryAfter [(a, s.reg r)] s t ∧
        ChangesOnly [] [.memory, .events] s t ∧ QuietAccesses [] [a] s t) ∧
    (∀ v : Byte, encode (.mviM v) = [0x36#8, v] ∧
      ∃ t, exec (.mviM v) s = .next t ∧ MemoryAfter [(a, v)] s t ∧
        ChangesOnly [] [.memory, .events] s t ∧ QuietAccesses [] [a] s t)

/-- LDA a16 and LDAX B, LDAX D (R115, R116): A gets the byte at the address; the pair is not altered; LDAX has no other pair. -/
def Obligations.LoadsAccumulator : Prop :=
  ∀ (s : State),
    (∀ a : Word, encode (.lda a) = [0x3A#8, loByte a, hiByte a] ∧
      ∃ t, exec (.lda a) s = .next t ∧ t.reg .a = s.byteAt a ∧ ChangesOnly [.a] [.events] s t ∧
        QuietAccesses [a] [] s t) ∧
    (∀ x ∈ [(Pair.bc, 0x0A#8, wordOf (s.reg .b) (s.reg .c)), (.de, 0x1A#8, wordOf (s.reg .d) (s.reg .e))],
      encode (.ldax x.1) = [x.2.1] ∧
      ∃ t, exec (.ldax x.1) s = .next t ∧ t.reg .a = s.byteAt x.2.2 ∧ ChangesOnly [.a] [.events] s t ∧
        QuietAccesses [x.2.2] [] s t) ∧
    (∀ p, Instr.wellFormed (.ldax p) = true ↔ p = .bc ∨ p = .de)

/-- LXI rp, d16 (R117; that SP is an operand is D14): the pair gets the data, high-order byte to the high-order register, or SP
gets it. -/
def Obligations.LxiLoadsPair : Prop :=
  ∀ (v : Word) (s : State),
    (∀ x ∈ [(Pair.bc, Reg.b, Reg.c), (.de, .d, .e), (.hl, .h, .l)],
      ∃ t, exec (.lxi x.1 v) s = .next t ∧ t.reg x.2.1 = hiByte v ∧ t.reg x.2.2 = loByte v ∧
        ChangesOnly [x.2.1, x.2.2] [] s t) ∧
    (∃ t, exec (.lxi .sp v) s = .next t ∧ t.sp = v ∧ ChangesOnly [] [.sp] s t)

/-- LHLD a16 and SHLD a16 (R118, R121): L goes with the byte at the address and H with the byte at the next one (mod 65536),
in that order. -/
def Obligations.HlDirectTransfers : Prop :=
  ∀ (a : Word) (s : State),
    (encode (.lhld a) = [0x2A#8, loByte a, hiByte a] ∧ encode (.shld a) = [0x22#8, loByte a, hiByte a]) ∧
    (∃ t, exec (.lhld a) s = .next t ∧ t.reg .l = s.byteAt a ∧ t.reg .h = (s.afterRead a).byteAt (a + 1) ∧
      ChangesOnly [.h, .l] [.events] s t ∧ QuietAccesses [a, a + 1] [] s t) ∧
    (∃ t, exec (.shld a) s = .next t ∧ MemoryAfter [(a, s.reg .l), (a + 1, s.reg .h)] s t ∧
      ChangesOnly [] [.memory, .events] s t ∧ QuietAccesses [] [a, a + 1] s t)

/-- STA a16 and STAX B, STAX D (R119, R120; that STAX has no other pair is D14): A goes to the address. -/
def Obligations.StoresAccumulator : Prop :=
  ∀ (s : State),
    (∀ a : Word, ∃ t, exec (.sta a) s = .next t ∧ MemoryAfter [(a, s.reg .a)] s t ∧
      ChangesOnly [] [.memory, .events] s t ∧ QuietAccesses [] [a] s t) ∧
    (∀ x ∈ [(Pair.bc, wordOf (s.reg .b) (s.reg .c)), (.de, wordOf (s.reg .d) (s.reg .e))],
      ∃ t, exec (.stax x.1) s = .next t ∧ MemoryAfter [(x.2, s.reg .a)] s t ∧
        ChangesOnly [] [.memory, .events] s t ∧ QuietAccesses [] [x.2] s t) ∧
    (∀ p, Instr.wellFormed (.stax p) = true ↔ p = .bc ∨ p = .de)

/-- XCHG, SPHL and PCHL (R122, R123, 42_branching.md R198): the register moves, nothing else; two XCHG restore the state. -/
def Obligations.HlMovesToDeSpPc : Prop :=
  ∀ (s : State),
    (encode .xchg = [0xEB#8] ∧ encode .sphl = [0xF9#8] ∧ encode .pchl = [0xE9#8]) ∧
    (∃ t, exec .xchg s = .next t ∧ t.reg .h = s.reg .d ∧ t.reg .l = s.reg .e ∧ t.reg .d = s.reg .h ∧ t.reg .e = s.reg .l ∧
      ChangesOnly [.d, .e, .h, .l] [] s t ∧ exec .xchg t = .next s) ∧
    (∃ t, exec .sphl s = .next t ∧ t.sp = wordOf (s.reg .h) (s.reg .l) ∧ ChangesOnly [] [.sp] s t) ∧
    (∃ t, exec .pchl s = .next t ∧ t.pc = wordOf (s.reg .h) (s.reg .l) ∧ ChangesOnly [] [.pc] s t)

/-- XTHL (R124; the order of the four accesses is D17): L is exchanged with the byte at SP and H with the byte at SP+1; SP is
not altered. -/
def Obligations.XthlExchangesTopOfStack : Prop :=
  ∀ (s : State), ∃ t, exec .xthl s = .next t ∧
    t.reg .l = s.byteAt s.sp ∧ t.reg .h = (s.afterRead s.sp).byteAt (s.sp + 1) ∧
    MemoryAfter [(s.sp, s.reg .l), (s.sp + 1, s.reg .h)] s t ∧
    ChangesOnly [.h, .l] [.memory, .events] s t ∧ QuietAccesses [s.sp, s.sp + 1] [s.sp + 1, s.sp] s t

/-- PUSH B, D, H and PUSH A (R125, R126): the high-order byte goes to SP-1, the low-order byte to SP-2, SP goes down by 2; the
low-order byte of PUSH A has the five flags at bits 7, 6, 4, 2, 0 (D13), its other bits free (log 13); there is no PUSH SP. -/
def Obligations.PushStoresPair : Prop :=
  ∀ (s : State),
    (∀ x ∈ [(Pair.bc, Reg.b, Reg.c), (.de, .d, .e), (.hl, .h, .l)],
      ∃ t, exec (.pushRp x.1) s = .next t ∧ t.sp = s.sp - 2 ∧
        MemoryAfter [(s.sp - 2, s.reg x.2.2), (s.sp - 1, s.reg x.2.1)] s t ∧
        ChangesOnly [] [.sp, .memory, .events] s t ∧ QuietAccesses [] [s.sp - 1, s.sp - 2] s t) ∧
    (∃ (t : State) (f : Byte), exec .pushA s = .next t ∧ t.sp = s.sp - 2 ∧
      f.getLsbD 7 = s.flags.s ∧ f.getLsbD 6 = s.flags.z ∧ f.getLsbD 4 = s.flags.ac ∧ f.getLsbD 2 = s.flags.p ∧
      f.getLsbD 0 = s.flags.cy ∧
      MemoryAfter [(s.sp - 2, f), (s.sp - 1, s.reg .a)] s t ∧
      ChangesOnly [] [.sp, .memory, .events] s t ∧ QuietAccesses [] [s.sp - 1, s.sp - 2] s t) ∧
    (∀ p, Instr.wellFormed (.pushRp p) = true ↔ p ≠ .sp)

/-- POP B, D, H and POP A (R127, R128): the low-order byte comes from SP, the high-order byte from SP+1, SP goes up by 2; POP A
loads the flags from bits 7, 6, 4, 2, 0 of the low-order byte (D13); there is no POP SP. -/
def Obligations.PopLoadsPair : Prop :=
  ∀ (s : State),
    (∀ x ∈ [(Pair.bc, Reg.b, Reg.c), (.de, .d, .e), (.hl, .h, .l)],
      ∃ t, exec (.popRp x.1) s = .next t ∧ t.sp = s.sp + 2 ∧
        t.reg x.2.2 = s.byteAt s.sp ∧ t.reg x.2.1 = (s.afterRead s.sp).byteAt (s.sp + 1) ∧
        ChangesOnly [x.2.1, x.2.2] [.sp, .events] s t ∧ QuietAccesses [s.sp, s.sp + 1] [] s t) ∧
    (∃ t, exec .popA s = .next t ∧ t.sp = s.sp + 2 ∧ t.reg .a = (s.afterRead s.sp).byteAt (s.sp + 1) ∧
      t.flags =
        { s := (s.byteAt s.sp).getLsbD 7, z := (s.byteAt s.sp).getLsbD 6, ac := (s.byteAt s.sp).getLsbD 4
          p := (s.byteAt s.sp).getLsbD 2, cy := (s.byteAt s.sp).getLsbD 0 } ∧
      ChangesOnly [.a] [.sp, .flags, .events] s t ∧ QuietAccesses [s.sp, s.sp + 1] [] s t) ∧
    (∀ p, Instr.wellFormed (.popRp p) = true ↔ p ≠ .sp)

/-- OUT and IN (R129, R130, 20_memory.md R58): OUT sends A to the port, an output event, and changes nothing of the machine; IN
loads A with the byte the port presents, scheduled or free (log 10). That the read is put in the record of events is the model's
choice, for R58 asks only for outputs (log 14). -/
def Obligations.PortTransfers : Prop :=
  ∀ (port : Byte) (s : State),
    (encode (.outPort port) = [0xD3#8, port] ∧ encode (.inPort port) = [0xDB#8, port]) ∧
    exec (.outPort port) s = .next { s with events := s.events ++ [.portWrite port (s.reg .a)] } ∧
    (∃ t, exec (.inPort port) s = .next t ∧ t.reg .a = s.portByte port ∧
      t.events = s.events ++ [.portRead port (t.reg .a)] ∧ ChangesOnly [.a] [.events] s t)

/-! ### Arithmetic -/

/-- ADD, ADC, ADI, ACI on every operand form: the sum mod 256, and CY, AC, S, Z, P of it (41_arithmetic.md R140, R142 to R145;
the flags are D7). -/
def Obligations.AdditionsAddWithFlags : Prop :=
  ∀ (o : Operand) (v : Byte) (s : State),
    AddsToA (.add o) (operandValue o s) 0 (operandReads o s) s ∧
    AddsToA (.adc o) (operandValue o s) s.flags.cy.toNat (operandReads o s) s ∧
    AddsToA (.adi v) v 0 [] s ∧ AddsToA (.aci v) v s.flags.cy.toNat [] s

/-- SUB, SBB, SUI, SBI on every operand form: the difference mod 256; CY is the borrow, AC is set when bit 4 lent nothing
(R141, R147 to R150; D7; AC is
D8, log 25). -/
def Obligations.SubtractionsSubtractWithFlags : Prop :=
  ∀ (o : Operand) (v : Byte) (s : State),
    SubtractsFromA (.sub o) (operandValue o s) 0 (operandReads o s) s ∧
    SubtractsFromA (.sbb o) (operandValue o s) s.flags.cy.toNat (operandReads o s) s ∧
    SubtractsFromA (.sui v) v 0 [] s ∧ SubtractsFromA (.sbi v) v s.flags.cy.toNat [] s

/-- CMP and CPI: CY says less and Z says equal, unsigned; all five flags are the subtraction's; A is preserved (43_logical.md
R210, R211; S, P are D12; AC is D12 and D8, log 25). -/
def Obligations.ComparisonsWriteFlagsOnly : Prop :=
  ∀ (o : Operand) (v : Byte) (s : State),
    ComparesWithA (.cmp o) (operandValue o s) (operandReads o s) s ∧ ComparesWithA (.cpi v) v [] s

/-- INR and DCR on a register and on M: one more, one less, mod 256; S, Z, P of the result, AC of bit 3, CY kept (R151, R153;
the flags are D9; AC of DCR is D8, log 25). -/
def Obligations.IncrementAndDecrement : Prop :=
  ∀ (s : State),
    (∀ r : Reg,
      (∃ t, exec (.inr (.reg r)) s = .next t ∧ (t.reg r).toNat = ((s.reg r).toNat + 1) % 256 ∧
        SignZeroParityOf (t.reg r) t.flags ∧ (t.flags.ac = true ↔ (s.reg r).toNat % 16 = 15) ∧ t.flags.cy = s.flags.cy ∧
        ChangesOnly [r] [.flags] s t) ∧
      (∃ t, exec (.dcr (.reg r)) s = .next t ∧ (t.reg r).toNat = ((s.reg r).toNat + 255) % 256 ∧
        SignZeroParityOf (t.reg r) t.flags ∧ (t.flags.ac = true ↔ (s.reg r).toNat % 16 ≠ 0) ∧ t.flags.cy = s.flags.cy ∧
        ChangesOnly [r] [.flags] s t)) ∧
    (∀ a v, a = wordOf (s.reg .h) (s.reg .l) → v = s.byteAt a →
      (∃ t, exec (.inr .m) s = .next t ∧ MemoryAfter [(a, v + 1)] s t ∧
        SignZeroParityOf (v + 1) t.flags ∧ (t.flags.ac = true ↔ v.toNat % 16 = 15) ∧ t.flags.cy = s.flags.cy ∧
        ChangesOnly [] [.flags, .memory, .events] s t ∧ QuietAccesses [a] [a] s t) ∧
      (∃ t, exec (.dcr .m) s = .next t ∧ MemoryAfter [(a, v - 1)] s t ∧
        SignZeroParityOf (v - 1) t.flags ∧ (t.flags.ac = true ↔ v.toNat % 16 ≠ 0) ∧ t.flags.cy = s.flags.cy ∧
        ChangesOnly [] [.flags, .memory, .events] s t ∧ QuietAccesses [a] [a] s t))

/-- INX and DCX: the pair as one 16-bit number, one more or one less mod 65536, no flag; each undoes the other (R152, R154; no
flag is D9, SP as an operand D14). -/
def Obligations.PairIncrementAndDecrement : Prop :=
  ∀ (s : State),
    (∀ x ∈ [(Pair.bc, Reg.b, Reg.c), (.de, .d, .e), (.hl, .h, .l)],
      (∃ t, exec (.inx x.1) s = .next t ∧
        256 * (t.reg x.2.1).toNat + (t.reg x.2.2).toNat =
          (256 * (s.reg x.2.1).toNat + (s.reg x.2.2).toNat + 1) % 65536 ∧
        ChangesOnly [x.2.1, x.2.2] [] s t ∧ exec (.dcx x.1) t = .next s) ∧
      (∃ t, exec (.dcx x.1) s = .next t ∧
        256 * (t.reg x.2.1).toNat + (t.reg x.2.2).toNat =
          (256 * (s.reg x.2.1).toNat + (s.reg x.2.2).toNat + 65535) % 65536 ∧
        ChangesOnly [x.2.1, x.2.2] [] s t ∧ exec (.inx x.1) t = .next s)) ∧
    (∃ t, exec (.inx .sp) s = .next t ∧ t.sp.toNat = (s.sp.toNat + 1) % 65536 ∧ ChangesOnly [] [.sp] s t ∧
      exec (.dcx .sp) t = .next s) ∧
    (∃ t, exec (.dcx .sp) s = .next t ∧ t.sp.toNat = (s.sp.toNat + 65535) % 65536 ∧ ChangesOnly [] [.sp] s t ∧
      exec (.inx .sp) t = .next s)

/-- DAD: HL gets the sum mod 65536 and CY its carry, cleared where there is none (D10); no other flag (R146; SP as an operand is
D14). -/
def Obligations.DadAddsToHl : Prop :=
  ∀ (s : State),
    ∀ x ∈ [(Pair.bc, 256 * (s.reg .b).toNat + (s.reg .c).toNat), (.de, 256 * (s.reg .d).toNat + (s.reg .e).toNat),
      (.hl, 256 * (s.reg .h).toNat + (s.reg .l).toNat), (.sp, s.sp.toNat)],
    ∃ t, exec (.dad x.1) s = .next t ∧
      256 * (t.reg .h).toNat + (t.reg .l).toNat = (256 * (s.reg .h).toNat + (s.reg .l).toNat + x.2) % 65536 ∧
      t.flags = { s.flags with cy := decide (65536 ≤ 256 * (s.reg .h).toNat + (s.reg .l).toNat + x.2) } ∧
      ChangesOnly [.h, .l] [.flags] s t

/-- DAA in its sequential reading: 6 is added if the low digit is above 9 or AC is set; then 60H if the high digit of that sum
is above 9 or CY is set; CY says whether the second was, AC whether the first carried (R155; the reading and the flags are
D11). -/
def Obligations.DaaAdjustsSequentially : Prop :=
  ∀ (s : State), ∀ x y : Nat,
    x = (s.reg .a).toNat + (if 9 < (s.reg .a).toNat % 16 ∨ s.flags.ac = true then 6 else 0) →
    y = x + (if 9 < x / 16 ∨ s.flags.cy = true then 96 else 0) →
    ∃ t, exec .daa s = .next t ∧ (t.reg .a).toNat = y % 256 ∧
      (t.flags.cy = true ↔ 9 < x / 16 ∨ s.flags.cy = true) ∧
      (t.flags.ac = true ↔ 16 ≤ (s.reg .a).toNat % 16 + (x - (s.reg .a).toNat)) ∧
      SignZeroParityOf (t.reg .a) t.flags ∧ ChangesOnly [.a] [.flags] s t

/-- Decimal addition: ACI of two-digit BCD data to a BCD accumulator, then DAA, leaves the two low decimal digits of the decimal
sum with the carry in, and CY the hundred (R155, R156; D11). -/
def Obligations.DaaAfterAdditionIsDecimal : Prop :=
  ∀ (s : State) (x1 x0 y1 y0 : Nat), x1 ≤ 9 → x0 ≤ 9 → y1 ≤ 9 → y0 ≤ 9 →
    (s.reg .a).toNat = 16 * x1 + x0 →
    ∃ t, execAll [.aci (BitVec.ofNat 8 (16 * y1 + y0)), .daa] s = .next t ∧
      10 * ((t.reg .a).toNat / 16) + (t.reg .a).toNat % 16 + 100 * t.flags.cy.toNat =
        (10 * x1 + x0) + (10 * y1 + y0) + s.flags.cy.toNat ∧
      (t.reg .a).toNat / 16 ≤ 9 ∧ (t.reg .a).toNat % 16 ≤ 9

/-! ### Branching -/

/-- JMP and the eight conditional jumps: PC gets the address exactly when the flag named has the value named; nothing else
changes (42_branching.md R171 to R179). -/
def Obligations.Jumps : Prop :=
  ∀ (a : Word) (s : State),
    ∀ x ∈ [(Instr.jmp a, 0xC3#8, true), (.jc a, 0xDA#8, s.flags.cy), (.jnc a, 0xD2#8, !s.flags.cy), (.jp a, 0xF2#8, !s.flags.s),
      (.jm a, 0xFA#8, s.flags.s), (.jz a, 0xCA#8, s.flags.z), (.jnz a, 0xC2#8, !s.flags.z), (.jpe a, 0xEA#8, s.flags.p),
      (.jpo a, 0xE2#8, !s.flags.p)],
    encode x.1 = [x.2.1, loByte a, hiByte a] ∧ JumpsIf x.2.2 x.1 a s

/-- CALL and the eight conditional calls: taken, PC is pushed and gets the address; untaken, nothing changes (R180 to R188; the
order of the pushed bytes and the untaken case are D16). -/
def Obligations.Calls : Prop :=
  ∀ (a : Word) (s : State),
    CallsIf true (.call a) a s ∧
    CallsIf s.flags.cy (.cc a) a s ∧ CallsIf (!s.flags.cy) (.cnc a) a s ∧
    CallsIf (!s.flags.s) (.cp a) a s ∧ CallsIf s.flags.s (.cm a) a s ∧
    CallsIf s.flags.z (.cz a) a s ∧ CallsIf (!s.flags.z) (.cnz a) a s ∧
    CallsIf s.flags.p (.cpe a) a s ∧ CallsIf (!s.flags.p) (.cpo a) a s

/-- RST n: `CALL 8n` in one byte; no interrupt state is touched (R199; the order of the pushed bytes is D16). -/
def Obligations.Restarts : Prop :=
  ∀ (s : State),
    ∀ x ∈ [(0#3, 0x0000#16), (1#3, 0x0008#16), (2#3, 0x0010#16), (3#3, 0x0018#16), (4#3, 0x0020#16), (5#3, 0x0028#16),
      (6#3, 0x0030#16), (7#3, 0x0038#16)],
    CallsIf true (.rst x.1) x.2 s ∧ exec (.rst x.1) s = exec (.call x.2) s

/-- RET and the eight conditional returns: taken, PC is popped; untaken, nothing changes (R189 to R197; SP up by 2, the byte
order and the untaken case are D16). -/
def Obligations.Returns : Prop :=
  ∀ (s : State),
    ReturnsIf true .ret s ∧
    ReturnsIf s.flags.cy .rc s ∧ ReturnsIf (!s.flags.cy) .rnc s ∧
    ReturnsIf (!s.flags.s) .rp s ∧ ReturnsIf s.flags.s .rm s ∧
    ReturnsIf s.flags.z .rz s ∧ ReturnsIf (!s.flags.z) .rnz s ∧
    ReturnsIf s.flags.p .rpe s ∧ ReturnsIf (!s.flags.p) .rpo s

/-! ### Logical -/

/-- ANA, ANI, XRA, XRI, ORA, ORI on every operand form: bit by bit; CY reset; AC set by AND, reset by the others (43_logical.md
R212 to R217; S, Z, P are D7). -/
def Obligations.LogicCombinesBits : Prop :=
  ∀ (o : Operand) (v : Byte) (s : State),
    CombinesWithA (.ana o) and (operandValue o s) true (operandReads o s) s ∧ CombinesWithA (.ani v) and v true [] s ∧
    CombinesWithA (.xra o) xor (operandValue o s) false (operandReads o s) s ∧ CombinesWithA (.xri v) xor v false [] s ∧
    CombinesWithA (.ora o) or (operandValue o s) false (operandReads o s) s ∧ CombinesWithA (.ori v) or v false [] s

/-- RLC, RRC, RAL, RAR as numbers: one position, CY the bit that leaves; S, Z, P, AC not affected (R218 to R221). -/
def Obligations.Rotates : Prop :=
  ∀ (s : State) (a : Nat), a = (s.reg .a).toNat →
    (encode .rlc = [0x07#8] ∧ encode .rrc = [0x0F#8] ∧ encode .ral = [0x17#8] ∧ encode .rar = [0x1F#8]) ∧
    RotatesA .rlc ((2 * a + a / 128) % 256) (decide (128 ≤ a)) s ∧
    RotatesA .rrc (a / 2 + 128 * (a % 2)) (decide (a % 2 = 1)) s ∧
    RotatesA .ral ((2 * a + s.flags.cy.toNat) % 256) (decide (128 ≤ a)) s ∧
    RotatesA .rar (a / 2 + 128 * s.flags.cy.toNat) (decide (a % 2 = 1)) s

/-- Eight RLC and eight RRC restore A; nine RAL and nine RAR restore the whole state (the corner cases of R218 to R221). -/
def Obligations.RotatesAreCyclic : Prop :=
  ∀ (s : State),
    (∃ t, execAll (List.replicate 8 .rlc) s = .next t ∧ t.reg .a = s.reg .a) ∧
    (∃ t, execAll (List.replicate 8 .rrc) s = .next t ∧ t.reg .a = s.reg .a) ∧
    execAll (List.replicate 9 .ral) s = .next s ∧ execAll (List.replicate 9 .rar) s = .next s

/-- CMA, CMC, STC: A becomes 255 - A with no flag; CY is complemented; CY is set (R222, R223, R224). -/
def Obligations.ComplementAndCarry : Prop :=
  ∀ (s : State),
    (encode .cma = [0x2F#8] ∧ encode .cmc = [0x3F#8] ∧ encode .stc = [0x37#8]) ∧
    (∃ t, exec .cma s = .next t ∧ (t.reg .a).toNat = 255 - (s.reg .a).toNat ∧ ChangesOnly [.a] [] s t) ∧
    (∃ t, exec .cmc s = .next t ∧ t.flags = { s.flags with cy := !s.flags.cy } ∧ ChangesOnly [] [.flags] s t) ∧
    (∃ t, exec .stc s = .next t ∧ t.flags = { s.flags with cy := true } ∧ ChangesOnly [] [.flags] s t)

/-! ### Control -/

/-- NOP, HLT, DI, EI (44_control.md R240 to R243; EI_SHADOW is D22): nothing; HALTED set; IE reset; IE set and its recognition
delayed. -/
def Obligations.NopHltDiEi : Prop :=
  ∀ (s : State),
    exec .nop s = .next s ∧
    exec .hlt s = .next { s with ctl := { s.ctl with halted := true } } ∧
    exec .di s = .next { s with ctl := { s.ctl with ie := false, eiShadow := false } } ∧
    exec .ei s = .next { s with ctl := { s.ctl with ie := true, eiShadow := true } }

/-- RIM: the eight bits it puts in A, bit 3 the saved IE for the first RIM after a TRAP; of the control state only
TRAP_RIM_ARMED changes (R244, 10_state.md R35; D18, D25). -/
def Obligations.RimReadsImage : Prop :=
  ∀ (s : State), ∃ t, exec .rim s = .next t ∧
    (t.reg .a).getLsbD 7 = s.serialIn ∧ (t.reg .a).getLsbD 6 = s.ctl.i75 ∧
    (t.reg .a).getLsbD 5 = s.env.pins.irq.r65Level ∧ (t.reg .a).getLsbD 4 = s.env.pins.irq.r55Level ∧
    (t.reg .a).getLsbD 3 = (if s.ctl.trapRimArmed = true then s.ctl.trapIeSaved else s.ctl.ie) ∧
    (t.reg .a).getLsbD 2 = s.ctl.m75 ∧ (t.reg .a).getLsbD 1 = s.ctl.m65 ∧ (t.reg .a).getLsbD 0 = s.ctl.m55 ∧
    t.ctl = { s.ctl with trapRimArmed := false } ∧ ChangesOnly [.a] [.ctl] s t

/-- SIM: the masks from bits 2 to 0 if bit 3 is 1, the RST 7.5 latch cleared if bit 4 is 1, SOD from bit 7 if bit 6 is 1, each
whatever the others say, bit 5 ignored; A is not written (R245, R35; D19, D40); a load of SOD is an event (log 14). -/
def Obligations.SimWritesMasksLatchAndSerialOut : Prop :=
  ∀ (s : State), ∃ t, exec .sim s = .next t ∧
    t.ctl = { s.ctl with
      m75 := if (s.reg .a).getLsbD 3 then (s.reg .a).getLsbD 2 else s.ctl.m75
      m65 := if (s.reg .a).getLsbD 3 then (s.reg .a).getLsbD 1 else s.ctl.m65
      m55 := if (s.reg .a).getLsbD 3 then (s.reg .a).getLsbD 0 else s.ctl.m55
      i75 := if (s.reg .a).getLsbD 4 then false else s.ctl.i75
      sod := if (s.reg .a).getLsbD 6 then (s.reg .a).getLsbD 7 else s.ctl.sod } ∧
    t.events = (if (s.reg .a).getLsbD 6 then s.events ++ [.serialOut ((s.reg .a).getLsbD 7)] else s.events) ∧
    ChangesOnly [] [.ctl, .events] s t
end

