-- ==== Sys2Proof/Laws/State.lean ====
section
/-! SUPPORT. The small lemmas of State: for each named update, what each field of the result is. A field an update may change in
a way that depends on the operands (memory, the event record, the pc of a transfer) has its lemma in Laws/Ops.lean. -/

namespace Sys2Proof.Machine

@[simp] theorem State.memRead_fst (a : Word) (s : State) : (s.memRead a).1 = s.byteAt a := rfl
@[simp] theorem State.memRead_snd (a : Word) (s : State) : (s.memRead a).2 = s.afterRead a := rfl
@[simp] theorem State.ioRead_fst (port : Byte) (s : State) : (s.ioRead port).1 = s.portByte port := rfl
@[simp] theorem State.ioRead_snd (port : Byte) (s : State) :
    (s.ioRead port).2 = s.note (.portRead port (s.portByte port)) := rfl

/-! ### note -/

@[simp] theorem State.note_regs (e : Event) (s : State) : (s.note e).regs = s.regs := rfl
@[simp] theorem State.note_sp (e : Event) (s : State) : (s.note e).sp = s.sp := rfl
@[simp] theorem State.note_pc (e : Event) (s : State) : (s.note e).pc = s.pc := rfl
@[simp] theorem State.note_flags (e : Event) (s : State) : (s.note e).flags = s.flags := rfl
@[simp] theorem State.note_ctl (e : Event) (s : State) : (s.note e).ctl = s.ctl := rfl
@[simp] theorem State.note_mem (e : Event) (s : State) : (s.note e).mem = s.mem := rfl
@[simp] theorem State.note_events (e : Event) (s : State) : (s.note e).events = s.events ++ [e] := rfl
@[simp] theorem State.note_env (e : Event) (s : State) : (s.note e).env = s.env := rfl

/-! ### setReg -/

@[simp] theorem State.setReg_sp (r : Reg) (v : Byte) (s : State) : (s.setReg r v).sp = s.sp := by cases r <;> rfl
@[simp] theorem State.setReg_pc (r : Reg) (v : Byte) (s : State) : (s.setReg r v).pc = s.pc := by cases r <;> rfl
@[simp] theorem State.setReg_flags (r : Reg) (v : Byte) (s : State) : (s.setReg r v).flags = s.flags := by cases r <;> rfl
@[simp] theorem State.setReg_ctl (r : Reg) (v : Byte) (s : State) : (s.setReg r v).ctl = s.ctl := by cases r <;> rfl
@[simp] theorem State.setReg_mem (r : Reg) (v : Byte) (s : State) : (s.setReg r v).mem = s.mem := by cases r <;> rfl
@[simp] theorem State.setReg_events (r : Reg) (v : Byte) (s : State) : (s.setReg r v).events = s.events := by cases r <;> rfl
@[simp] theorem State.setReg_env (r : Reg) (v : Byte) (s : State) : (s.setReg r v).env = s.env := by cases r <;> rfl

/-! ### setPair -/

@[simp] theorem State.setPair_pc (p : Pair) (v : Word) (s : State) : (s.setPair p v).pc = s.pc := by cases p <;> rfl
@[simp] theorem State.setPair_flags (p : Pair) (v : Word) (s : State) : (s.setPair p v).flags = s.flags := by cases p <;> rfl
@[simp] theorem State.setPair_ctl (p : Pair) (v : Word) (s : State) : (s.setPair p v).ctl = s.ctl := by cases p <;> rfl
@[simp] theorem State.setPair_mem (p : Pair) (v : Word) (s : State) : (s.setPair p v).mem = s.mem := by cases p <;> rfl
@[simp] theorem State.setPair_events (p : Pair) (v : Word) (s : State) : (s.setPair p v).events = s.events := by cases p <;> rfl
@[simp] theorem State.setPair_env (p : Pair) (v : Word) (s : State) : (s.setPair p v).env = s.env := by cases p <;> rfl

/-! ### accumulate -/

@[simp] theorem State.accumulate_regs (x : Byte × Flags) (s : State) : (s.accumulate x).regs = { s.regs with a := x.1 } := rfl
@[simp] theorem State.accumulate_sp (x : Byte × Flags) (s : State) : (s.accumulate x).sp = s.sp := rfl
@[simp] theorem State.accumulate_pc (x : Byte × Flags) (s : State) : (s.accumulate x).pc = s.pc := rfl
@[simp] theorem State.accumulate_flags (x : Byte × Flags) (s : State) : (s.accumulate x).flags = x.2 := rfl
@[simp] theorem State.accumulate_ctl (x : Byte × Flags) (s : State) : (s.accumulate x).ctl = s.ctl := rfl
@[simp] theorem State.accumulate_mem (x : Byte × Flags) (s : State) : (s.accumulate x).mem = s.mem := rfl
@[simp] theorem State.accumulate_events (x : Byte × Flags) (s : State) : (s.accumulate x).events = s.events := rfl
@[simp] theorem State.accumulate_env (x : Byte × Flags) (s : State) : (s.accumulate x).env = s.env := rfl

/-! ### rotated -/

@[simp] theorem State.rotated_regs (x : Byte × Bool) (s : State) : (s.rotated x).regs = { s.regs with a := x.1 } := rfl
@[simp] theorem State.rotated_sp (x : Byte × Bool) (s : State) : (s.rotated x).sp = s.sp := rfl
@[simp] theorem State.rotated_pc (x : Byte × Bool) (s : State) : (s.rotated x).pc = s.pc := rfl
@[simp] theorem State.rotated_flags (x : Byte × Bool) (s : State) : (s.rotated x).flags = { s.flags with cy := x.2 } := rfl
@[simp] theorem State.rotated_ctl (x : Byte × Bool) (s : State) : (s.rotated x).ctl = s.ctl := rfl
@[simp] theorem State.rotated_mem (x : Byte × Bool) (s : State) : (s.rotated x).mem = s.mem := rfl
@[simp] theorem State.rotated_events (x : Byte × Bool) (s : State) : (s.rotated x).events = s.events := rfl
@[simp] theorem State.rotated_env (x : Byte × Bool) (s : State) : (s.rotated x).env = s.env := rfl

/-! ### afterRead -/

@[simp] theorem State.afterRead_regs (a : Word) (s : State) : (s.afterRead a).regs = s.regs := by unfold State.afterRead; split <;> rfl
@[simp] theorem State.afterRead_sp (a : Word) (s : State) : (s.afterRead a).sp = s.sp := by unfold State.afterRead; split <;> rfl
@[simp] theorem State.afterRead_pc (a : Word) (s : State) : (s.afterRead a).pc = s.pc := by unfold State.afterRead; split <;> rfl
@[simp] theorem State.afterRead_flags (a : Word) (s : State) : (s.afterRead a).flags = s.flags := by unfold State.afterRead; split <;> rfl
@[simp] theorem State.afterRead_ctl (a : Word) (s : State) : (s.afterRead a).ctl = s.ctl := by unfold State.afterRead; split <;> rfl
@[simp] theorem State.afterRead_mem (a : Word) (s : State) : (s.afterRead a).mem = s.mem := by unfold State.afterRead; split <;> rfl
@[simp] theorem State.afterRead_env (a : Word) (s : State) : (s.afterRead a).env = s.env := by unfold State.afterRead; split <;> rfl

/-! ### memWrite -/

@[simp] theorem State.memWrite_regs (a : Word) (v : Byte) (s : State) : (s.memWrite a v).regs = s.regs := by unfold State.memWrite; split <;> rfl
@[simp] theorem State.memWrite_sp (a : Word) (v : Byte) (s : State) : (s.memWrite a v).sp = s.sp := by unfold State.memWrite; split <;> rfl
@[simp] theorem State.memWrite_pc (a : Word) (v : Byte) (s : State) : (s.memWrite a v).pc = s.pc := by unfold State.memWrite; split <;> rfl
@[simp] theorem State.memWrite_flags (a : Word) (v : Byte) (s : State) : (s.memWrite a v).flags = s.flags := by unfold State.memWrite; split <;> rfl
@[simp] theorem State.memWrite_ctl (a : Word) (v : Byte) (s : State) : (s.memWrite a v).ctl = s.ctl := by unfold State.memWrite; split <;> rfl
@[simp] theorem State.memWrite_env (a : Word) (v : Byte) (s : State) : (s.memWrite a v).env = s.env := by unfold State.memWrite; split <;> rfl

/-! ### ioWrite -/

@[simp] theorem State.ioWrite_regs (port v : Byte) (s : State) : (s.ioWrite port v).regs = s.regs := rfl
@[simp] theorem State.ioWrite_sp (port v : Byte) (s : State) : (s.ioWrite port v).sp = s.sp := rfl
@[simp] theorem State.ioWrite_pc (port v : Byte) (s : State) : (s.ioWrite port v).pc = s.pc := rfl
@[simp] theorem State.ioWrite_flags (port v : Byte) (s : State) : (s.ioWrite port v).flags = s.flags := rfl
@[simp] theorem State.ioWrite_ctl (port v : Byte) (s : State) : (s.ioWrite port v).ctl = s.ctl := rfl
@[simp] theorem State.ioWrite_mem (port v : Byte) (s : State) : (s.ioWrite port v).mem = s.mem := rfl
@[simp] theorem State.ioWrite_events (port v : Byte) (s : State) : (s.ioWrite port v).events = s.events ++ [.portWrite port v] := rfl
@[simp] theorem State.ioWrite_env (port v : Byte) (s : State) : (s.ioWrite port v).env = s.env := rfl

/-! ### push16 -/

@[simp] theorem State.push16_regs (v : Word) (s : State) : (s.push16 v).regs = s.regs := by simp [State.push16]
@[simp] theorem State.push16_sp (v : Word) (s : State) : (s.push16 v).sp = s.sp - 2 := by simp [State.push16]; bv_omega
@[simp] theorem State.push16_pc (v : Word) (s : State) : (s.push16 v).pc = s.pc := by simp [State.push16]
@[simp] theorem State.push16_flags (v : Word) (s : State) : (s.push16 v).flags = s.flags := by simp [State.push16]
@[simp] theorem State.push16_ctl (v : Word) (s : State) : (s.push16 v).ctl = s.ctl := by simp [State.push16]
@[simp] theorem State.push16_env (v : Word) (s : State) : (s.push16 v).env = s.env := by simp [State.push16]

/-! ### pop16 -/

@[simp] theorem State.pop16_regs (s : State) : (s.pop16.2).regs = s.regs := by simp [State.pop16]
@[simp] theorem State.pop16_sp (s : State) : (s.pop16.2).sp = s.sp + 2 := by simp [State.pop16]; bv_omega
@[simp] theorem State.pop16_pc (s : State) : (s.pop16.2).pc = s.pc := by simp [State.pop16]
@[simp] theorem State.pop16_flags (s : State) : (s.pop16.2).flags = s.flags := by simp [State.pop16]
@[simp] theorem State.pop16_ctl (s : State) : (s.pop16.2).ctl = s.ctl := by simp [State.pop16]
@[simp] theorem State.pop16_mem (s : State) : (s.pop16.2).mem = s.mem := by simp [State.pop16]
@[simp] theorem State.pop16_env (s : State) : (s.pop16.2).env = s.env := by simp [State.pop16]

/-! ### popPc -/

@[simp] theorem State.popPc_regs (s : State) : (s.popPc).regs = s.regs := by simp [State.popPc]
@[simp] theorem State.popPc_sp (s : State) : (s.popPc).sp = s.sp + 2 := by simp [State.popPc]
@[simp] theorem State.popPc_pc (s : State) : (s.popPc).pc = s.pop16.1 := rfl
@[simp] theorem State.popPc_flags (s : State) : (s.popPc).flags = s.flags := by simp [State.popPc]
@[simp] theorem State.popPc_ctl (s : State) : (s.popPc).ctl = s.ctl := by simp [State.popPc]
@[simp] theorem State.popPc_mem (s : State) : (s.popPc).mem = s.mem := by simp [State.popPc]
@[simp] theorem State.popPc_env (s : State) : (s.popPc).env = s.env := by simp [State.popPc]

/-! ### callTo -/

@[simp] theorem State.callTo_regs (target : Word) (s : State) : (s.callTo target).regs = s.regs := by simp [State.callTo]
@[simp] theorem State.callTo_sp (target : Word) (s : State) : (s.callTo target).sp = s.sp - 2 := by simp [State.callTo]
@[simp] theorem State.callTo_pc (target : Word) (s : State) : (s.callTo target).pc = target := rfl
@[simp] theorem State.callTo_flags (target : Word) (s : State) : (s.callTo target).flags = s.flags := by simp [State.callTo]
@[simp] theorem State.callTo_ctl (target : Word) (s : State) : (s.callTo target).ctl = s.ctl := by simp [State.callTo]
@[simp] theorem State.callTo_mem (target : Word) (s : State) : (s.callTo target).mem = (s.push16 s.pc).mem := rfl
@[simp] theorem State.callTo_events (target : Word) (s : State) : (s.callTo target).events = (s.push16 s.pc).events := rfl
@[simp] theorem State.callTo_env (target : Word) (s : State) : (s.callTo target).env = s.env := by simp [State.callTo]

/-! ### readOperand -/

@[simp] theorem State.readOperand_regs (o : Operand) (s : State) : ((s.readOperand o).2).regs = s.regs := by cases o <;> simp [State.readOperand]
@[simp] theorem State.readOperand_sp (o : Operand) (s : State) : ((s.readOperand o).2).sp = s.sp := by cases o <;> simp [State.readOperand]
@[simp] theorem State.readOperand_pc (o : Operand) (s : State) : ((s.readOperand o).2).pc = s.pc := by cases o <;> simp [State.readOperand]
@[simp] theorem State.readOperand_flags (o : Operand) (s : State) : ((s.readOperand o).2).flags = s.flags := by cases o <;> simp [State.readOperand]
@[simp] theorem State.readOperand_ctl (o : Operand) (s : State) : ((s.readOperand o).2).ctl = s.ctl := by cases o <;> simp [State.readOperand]
@[simp] theorem State.readOperand_mem (o : Operand) (s : State) : ((s.readOperand o).2).mem = s.mem := by cases o <;> simp [State.readOperand]
@[simp] theorem State.readOperand_env (o : Operand) (s : State) : ((s.readOperand o).2).env = s.env := by cases o <;> simp [State.readOperand]

/-! ### writeOperand -/

@[simp] theorem State.writeOperand_sp (o : Operand) (v : Byte) (s : State) : (s.writeOperand o v).sp = s.sp := by
  cases o <;> simp [State.writeOperand]
@[simp] theorem State.writeOperand_pc (o : Operand) (v : Byte) (s : State) : (s.writeOperand o v).pc = s.pc := by
  cases o <;> simp [State.writeOperand]
@[simp] theorem State.writeOperand_flags (o : Operand) (v : Byte) (s : State) : (s.writeOperand o v).flags = s.flags := by
  cases o <;> simp [State.writeOperand]
@[simp] theorem State.writeOperand_ctl (o : Operand) (v : Byte) (s : State) : (s.writeOperand o v).ctl = s.ctl := by
  cases o <;> simp [State.writeOperand]
@[simp] theorem State.writeOperand_env (o : Operand) (v : Byte) (s : State) : (s.writeOperand o v).env = s.env := by
  cases o <;> simp [State.writeOperand]

/-! ### jumpIf -/

@[simp] theorem State.jumpIf_regs (k : Cond) (target : Word) (s : State) : (s.jumpIf k target).regs = s.regs := by unfold State.jumpIf; split <;> rfl
@[simp] theorem State.jumpIf_sp (k : Cond) (target : Word) (s : State) : (s.jumpIf k target).sp = s.sp := by unfold State.jumpIf; split <;> rfl
@[simp] theorem State.jumpIf_flags (k : Cond) (target : Word) (s : State) : (s.jumpIf k target).flags = s.flags := by unfold State.jumpIf; split <;> rfl
@[simp] theorem State.jumpIf_ctl (k : Cond) (target : Word) (s : State) : (s.jumpIf k target).ctl = s.ctl := by unfold State.jumpIf; split <;> rfl
@[simp] theorem State.jumpIf_mem (k : Cond) (target : Word) (s : State) : (s.jumpIf k target).mem = s.mem := by unfold State.jumpIf; split <;> rfl
@[simp] theorem State.jumpIf_events (k : Cond) (target : Word) (s : State) : (s.jumpIf k target).events = s.events := by unfold State.jumpIf; split <;> rfl
@[simp] theorem State.jumpIf_env (k : Cond) (target : Word) (s : State) : (s.jumpIf k target).env = s.env := by unfold State.jumpIf; split <;> rfl

/-! ### presentInputs -/

@[simp] theorem State.presentInputs_regs (s : State) : (s.presentInputs).regs = s.regs := rfl
@[simp] theorem State.presentInputs_sp (s : State) : (s.presentInputs).sp = s.sp := rfl
@[simp] theorem State.presentInputs_pc (s : State) : (s.presentInputs).pc = s.pc := rfl
@[simp] theorem State.presentInputs_flags (s : State) : (s.presentInputs).flags = s.flags := rfl
@[simp] theorem State.presentInputs_mem (s : State) : (s.presentInputs).mem = s.mem := rfl
@[simp] theorem State.presentInputs_events (s : State) : (s.presentInputs).events = s.events := rfl

/-! ### closeShadow -/

@[simp] theorem State.closeShadow_regs (i : Instr) (s : State) : (s.closeShadow i).regs = s.regs := rfl
@[simp] theorem State.closeShadow_sp (i : Instr) (s : State) : (s.closeShadow i).sp = s.sp := rfl
@[simp] theorem State.closeShadow_pc (i : Instr) (s : State) : (s.closeShadow i).pc = s.pc := rfl
@[simp] theorem State.closeShadow_flags (i : Instr) (s : State) : (s.closeShadow i).flags = s.flags := rfl
@[simp] theorem State.closeShadow_ctl (i : Instr) (s : State) : (s.closeShadow i).ctl = { s.ctl with eiShadow := decide (i = Instr.ei) } := rfl
@[simp] theorem State.closeShadow_mem (i : Instr) (s : State) : (s.closeShadow i).mem = s.mem := rfl
@[simp] theorem State.closeShadow_events (i : Instr) (s : State) : (s.closeShadow i).events = s.events := rfl
@[simp] theorem State.closeShadow_env (i : Instr) (s : State) : (s.closeShadow i).env = s.env := rfl

/-! ### acknowledge -/

@[simp] theorem State.acknowledge_regs (x : Internal) (s : State) : (s.acknowledge x).regs = s.regs := by cases x <;> rfl
@[simp] theorem State.acknowledge_sp (x : Internal) (s : State) : (s.acknowledge x).sp = s.sp := by cases x <;> rfl
@[simp] theorem State.acknowledge_pc (x : Internal) (s : State) : (s.acknowledge x).pc = s.pc := by cases x <;> rfl
@[simp] theorem State.acknowledge_flags (x : Internal) (s : State) : (s.acknowledge x).flags = s.flags := by cases x <;> rfl
@[simp] theorem State.acknowledge_mem (x : Internal) (s : State) : (s.acknowledge x).mem = s.mem := by cases x <;> rfl
@[simp] theorem State.acknowledge_events (x : Internal) (s : State) : (s.acknowledge x).events = s.events := by cases x <;> rfl
@[simp] theorem State.acknowledge_env (x : Internal) (s : State) : (s.acknowledge x).env = s.env := by cases x <;> rfl

/-! ### enterInterrupt -/

@[simp] theorem State.enterInterrupt_regs (target : Word) (s : State) : (s.enterInterrupt target).regs = s.regs := by simp [State.enterInterrupt]
@[simp] theorem State.enterInterrupt_sp (target : Word) (s : State) : (s.enterInterrupt target).sp = s.sp - 2 := by simp [State.enterInterrupt]
@[simp] theorem State.enterInterrupt_pc (target : Word) (s : State) : (s.enterInterrupt target).pc = target := rfl
@[simp] theorem State.enterInterrupt_flags (target : Word) (s : State) : (s.enterInterrupt target).flags = s.flags := by simp [State.enterInterrupt]
@[simp] theorem State.enterInterrupt_ctl (target : Word) (s : State) : (s.enterInterrupt target).ctl = { s.ctl with halted := false, ie := false, eiShadow := false } := by simp [State.enterInterrupt]
@[simp] theorem State.enterInterrupt_env (target : Word) (s : State) : (s.enterInterrupt target).env = s.env := by simp [State.enterInterrupt]

/-! ### fetchByte -/

@[simp] theorem State.fetchByte_regs (s : State) : (s.fetchByte.2).regs = s.regs := by simp [State.fetchByte]
@[simp] theorem State.fetchByte_sp (s : State) : (s.fetchByte.2).sp = s.sp := by simp [State.fetchByte]
@[simp] theorem State.fetchByte_pc (s : State) : (s.fetchByte.2).pc = s.pc + 1 := rfl
@[simp] theorem State.fetchByte_flags (s : State) : (s.fetchByte.2).flags = s.flags := by simp [State.fetchByte]
@[simp] theorem State.fetchByte_ctl (s : State) : (s.fetchByte.2).ctl = s.ctl := by simp [State.fetchByte]
@[simp] theorem State.fetchByte_mem (s : State) : (s.fetchByte.2).mem = s.mem := by simp [State.fetchByte]
@[simp] theorem State.fetchByte_env (s : State) : (s.fetchByte.2).env = s.env := by simp [State.fetchByte]

/-! ### fetchIf -/

@[simp] theorem State.fetchIf_regs (w : Bool) (s : State) : ((s.fetchIf w).2).regs = s.regs := by unfold State.fetchIf; split <;> simp
@[simp] theorem State.fetchIf_sp (w : Bool) (s : State) : ((s.fetchIf w).2).sp = s.sp := by unfold State.fetchIf; split <;> simp
@[simp] theorem State.fetchIf_flags (w : Bool) (s : State) : ((s.fetchIf w).2).flags = s.flags := by unfold State.fetchIf; split <;> simp
@[simp] theorem State.fetchIf_ctl (w : Bool) (s : State) : ((s.fetchIf w).2).ctl = s.ctl := by unfold State.fetchIf; split <;> simp
@[simp] theorem State.fetchIf_mem (w : Bool) (s : State) : ((s.fetchIf w).2).mem = s.mem := by unfold State.fetchIf; split <;> simp
@[simp] theorem State.fetchIf_env (w : Bool) (s : State) : ((s.fetchIf w).2).env = s.env := by unfold State.fetchIf; split <;> simp

/-! ### fetchInstr -/

@[simp] theorem State.fetchInstr_regs (s : State) : (s.fetchInstr.2).regs = s.regs := by simp [State.fetchInstr]
@[simp] theorem State.fetchInstr_sp (s : State) : (s.fetchInstr.2).sp = s.sp := by simp [State.fetchInstr]
@[simp] theorem State.fetchInstr_flags (s : State) : (s.fetchInstr.2).flags = s.flags := by simp [State.fetchInstr]
@[simp] theorem State.fetchInstr_ctl (s : State) : (s.fetchInstr.2).ctl = s.ctl := by simp [State.fetchInstr]
@[simp] theorem State.fetchInstr_mem (s : State) : (s.fetchInstr.2).mem = s.mem := by simp [State.fetchInstr]
@[simp] theorem State.fetchInstr_env (s : State) : (s.fetchInstr.2).env = s.env := by simp [State.fetchInstr]

/-! ### loadSod -/

@[simp] theorem State.loadSod_regs (v : Byte) (s : State) : (s.loadSod v).regs = s.regs := by unfold State.loadSod; split <;> rfl
@[simp] theorem State.loadSod_sp (v : Byte) (s : State) : (s.loadSod v).sp = s.sp := by unfold State.loadSod; split <;> rfl
@[simp] theorem State.loadSod_pc (v : Byte) (s : State) : (s.loadSod v).pc = s.pc := by unfold State.loadSod; split <;> rfl
@[simp] theorem State.loadSod_flags (v : Byte) (s : State) : (s.loadSod v).flags = s.flags := by unfold State.loadSod; split <;> rfl
@[simp] theorem State.loadSod_mem (v : Byte) (s : State) : (s.loadSod v).mem = s.mem := by unfold State.loadSod; split <;> rfl
@[simp] theorem State.loadSod_env (v : Byte) (s : State) : (s.loadSod v).env = s.env := by unfold State.loadSod; split <;> rfl

/-! ### applySimImage -/

@[simp] theorem State.applySimImage_regs (v : Byte) (s : State) : (s.applySimImage v).regs = s.regs := by simp [State.applySimImage]
@[simp] theorem State.applySimImage_sp (v : Byte) (s : State) : (s.applySimImage v).sp = s.sp := by simp [State.applySimImage]
@[simp] theorem State.applySimImage_pc (v : Byte) (s : State) : (s.applySimImage v).pc = s.pc := by simp [State.applySimImage]
@[simp] theorem State.applySimImage_flags (v : Byte) (s : State) : (s.applySimImage v).flags = s.flags := by simp [State.applySimImage]
@[simp] theorem State.applySimImage_mem (v : Byte) (s : State) : (s.applySimImage v).mem = s.mem := by simp [State.applySimImage]
@[simp] theorem State.applySimImage_env (v : Byte) (s : State) : (s.applySimImage v).env = s.env := by simp [State.applySimImage]

/-! ### systemReset -/

@[simp] theorem State.systemReset_regs (rg : Registers) (p : Word) (f : Flags) (s : State) : (s.systemReset rg p f).regs = rg := rfl
@[simp] theorem State.systemReset_sp (rg : Registers) (p : Word) (f : Flags) (s : State) : (s.systemReset rg p f).sp = p := rfl
@[simp] theorem State.systemReset_pc (rg : Registers) (p : Word) (f : Flags) (s : State) : (s.systemReset rg p f).pc = 0x0000#16 := rfl
@[simp] theorem State.systemReset_flags (rg : Registers) (p : Word) (f : Flags) (s : State) : (s.systemReset rg p f).flags = f := rfl
@[simp] theorem State.systemReset_mem (rg : Registers) (p : Word) (f : Flags) (s : State) : (s.systemReset rg p f).mem = s.mem := rfl
@[simp] theorem State.systemReset_events (rg : Registers) (p : Word) (f : Flags) (s : State) : (s.systemReset rg p f).events = s.events := rfl
@[simp] theorem State.systemReset_env (rg : Registers) (p : Word) (f : Flags) (s : State) : (s.systemReset rg p f).env = s.env := rfl

/-! ### resetEvent -/

@[simp] theorem State.resetEvent_pc (s : State) : (s.resetEvent).pc = 0x0000#16 := rfl
@[simp] theorem State.resetEvent_mem (s : State) : (s.resetEvent).mem = s.mem := rfl
@[simp] theorem State.resetEvent_events (s : State) : (s.resetEvent).events = s.events := rfl
@[simp] theorem State.resetEvent_env (s : State) : (s.resetEvent).env = s.env := rfl

/-! ### Registers and pairs -/

@[simp] theorem State.setReg_reg_same (r : Reg) (v : Byte) (s : State) : (s.setReg r v).reg r = v := by cases r <;> rfl

theorem State.setReg_reg_other {r q : Reg} (h : q ≠ r) (v : Byte) (s : State) : (s.setReg r v).reg q = s.reg q := by
  cases r <;> cases q <;> first | rfl | exact absurd rfl h

theorem State.reg_congr {s t : State} (h : t.regs = s.regs) (r : Reg) : t.reg r = s.reg r := by
  cases r <;> simp [State.reg, h]

theorem State.setReg_reg (r q : Reg) (v : Byte) (s : State) : (s.setReg r v).reg q = if q = r then v else s.reg q := by
  cases r <;> cases q <;> rfl

theorem State.setReg_reg_self (r : Reg) (s : State) : s.setReg r (s.reg r) = s := by cases r <;> rfl

theorem State.accumulate_reg (x : Byte × Flags) (s : State) (q : Reg) :
    (s.accumulate x).reg q = if q = .a then x.1 else s.reg q := by
  cases q <;> rfl

theorem State.rotated_reg (x : Byte × Bool) (s : State) (q : Reg) :
    (s.rotated x).reg q = if q = .a then x.1 else s.reg q := by
  cases q <;> rfl

@[simp] theorem State.note_reg (e : Event) (s : State) (r : Reg) : (s.note e).reg r = s.reg r := rfl
@[simp] theorem State.afterRead_reg (a : Word) (s : State) (r : Reg) : (s.afterRead a).reg r = s.reg r :=
  State.reg_congr (by simp) r
@[simp] theorem State.memWrite_reg (a : Word) (v : Byte) (s : State) (r : Reg) : (s.memWrite a v).reg r = s.reg r :=
  State.reg_congr (by simp) r
@[simp] theorem State.push16_reg (v : Word) (s : State) (r : Reg) : (s.push16 v).reg r = s.reg r :=
  State.reg_congr (by simp) r
@[simp] theorem State.pop16_reg (s : State) (r : Reg) : (s.pop16.2).reg r = s.reg r := State.reg_congr (by simp) r
@[simp] theorem State.popPc_reg (s : State) (r : Reg) : (s.popPc).reg r = s.reg r := State.reg_congr (by simp) r
@[simp] theorem State.callTo_reg (a : Word) (s : State) (r : Reg) : (s.callTo a).reg r = s.reg r :=
  State.reg_congr (by simp) r
@[simp] theorem State.readOperand_reg (o : Operand) (s : State) (r : Reg) : ((s.readOperand o).2).reg r = s.reg r :=
  State.reg_congr (by simp) r
@[simp] theorem State.enterInterrupt_reg (a : Word) (s : State) (r : Reg) : (s.enterInterrupt a).reg r = s.reg r :=
  State.reg_congr (by simp) r
@[simp] theorem State.acknowledge_reg (x : Internal) (s : State) (r : Reg) : (s.acknowledge x).reg r = s.reg r :=
  State.reg_congr (by simp) r
@[simp] theorem State.applySimImage_reg (v : Byte) (s : State) (r : Reg) : (s.applySimImage v).reg r = s.reg r :=
  State.reg_congr (by simp) r

theorem wordOf_toNat (hi lo : Byte) : (wordOf hi lo).toNat = 256 * hi.toNat + lo.toNat := by
  have h := lo.isLt
  simp only [wordOf, BitVec.toNat_append, Nat.shiftLeft_eq]
  rw [Nat.mul_comm, ← Nat.two_pow_add_eq_or_of_lt h]

theorem hiByte_toNat (v : Word) : (hiByte v).toNat = v.toNat / 256 := by
  have h := v.isLt
  simp only [hiByte, BitVec.extractLsb'_toNat, Nat.shiftRight_eq_div_pow]
  omega

theorem loByte_toNat (v : Word) : (loByte v).toNat = v.toNat % 256 := by
  simp [loByte, BitVec.extractLsb'_toNat]

theorem wordOf_hiByte_loByte (v : Word) : wordOf (hiByte v) (loByte v) = v := by
  apply BitVec.eq_of_toNat_eq
  rw [wordOf_toNat, hiByte_toNat, loByte_toNat]
  omega

@[simp] theorem hiByte_wordOf (hi lo : Byte) : hiByte (wordOf hi lo) = hi := by
  apply BitVec.eq_of_toNat_eq
  have h := lo.isLt
  rw [hiByte_toNat, wordOf_toNat]
  omega

@[simp] theorem loByte_wordOf (hi lo : Byte) : loByte (wordOf hi lo) = lo := by
  apply BitVec.eq_of_toNat_eq
  have h := lo.isLt
  rw [loByte_toNat, wordOf_toNat]
  omega

/-- The bits of a byte made of bits. -/
theorem byteOfBits_getLsbD (b7 b6 b5 b4 b3 b2 b1 b0 : Bool) (k : Nat) :
    (byteOfBits b7 b6 b5 b4 b3 b2 b1 b0).getLsbD k =
      if k = 0 then b0 else if k = 1 then b1 else if k = 2 then b2 else if k = 3 then b3 else if k = 4 then b4
      else if k = 5 then b5 else if k = 6 then b6 else if k = 7 then b7 else false := by
  by_cases h : 8 ≤ k
  · rw [BitVec.getLsbD_of_ge _ _ h]
    split_ifs <;> first | omega | rfl
  · have : k < 8 := by omega
    revert b7 b6 b5 b4 b3 b2 b1 b0
    interval_cases k <;> decide

@[simp] theorem State.setPair_pair_same (p : Pair) (v : Word) (s : State) : (s.setPair p v).pair p = v := by
  cases p <;> simp [State.setPair, State.pair, wordOf_hiByte_loByte]

/-! ### Inputs at a boundary -/

@[simp] theorem State.presentInputs_pins (s : State) : s.presentInputs.env.pins = s.nextRecord := rfl
@[simp] theorem State.presentInputs_schedule (s : State) : s.presentInputs.env.schedule = s.env.schedule.tail := rfl
@[simp] theorem State.presentInputs_boundary (s : State) : s.presentInputs.env.boundary = s.env.boundary + 1 := rfl
@[simp] theorem State.presentInputs_memMap (s : State) : s.presentInputs.env.memMap = s.env.memMap := rfl
@[simp] theorem State.presentInputs_ctl (s : State) : s.presentInputs.ctl =
    { s.ctl with i75 := s.ctl.i75 || s.nextRecord.irq.r75Rise, trapFF := s.ctl.trapFF || s.nextRecord.irq.trapRise } := rfl

end Sys2Proof.Machine
end

