-- ==== Sys2Proof/Laws/Memory.lean ====
section
/-! SUPPORT. The laws of memory contents: what a read finds after a write, and that every operation keeps the canonical form. -/

namespace Sys2Proof.Machine

theorem Memory.read_without_same (m : Memory) (a : Nat) : Memory.read (Memory.without m a) a = Memory.unlisted := by
  induction m with
  | nil => rfl
  | cons c rest ih =>
    by_cases h : c.1 = a
    · simpa [Memory.without, h] using ih
    · simpa [Memory.without, Memory.read, h] using ih

theorem Memory.read_without_other (m : Memory) {a b : Nat} (h : b ≠ a) :
    Memory.read (Memory.without m a) b = Memory.read m b := by
  induction m with
  | nil => rfl
  | cons c rest ih =>
    by_cases hc : c.1 = a
    · have hb : c.1 ≠ b := fun e => h (e ▸ hc)
      have : Memory.without (c :: rest) a = Memory.without rest a := by simp [Memory.without, hc]
      rw [this, ih]
      simp [Memory.read, hb]
    · have : Memory.without (c :: rest) a = c :: Memory.without rest a := by simp [Memory.without, hc]
      rw [this]
      simp [Memory.read, ih]

theorem Memory.read_place_other (m : Memory) {a b : Nat} (v : Byte) (h : b ≠ a) :
    Memory.read (Memory.place m a v) b = Memory.read m b := by
  induction m with
  | nil => simp [Memory.place, Memory.read, Ne.symm h]
  | cons c rest ih =>
    by_cases hc : c.1 < a
    · simp [Memory.place, Memory.read, hc, ih]
    · simp [Memory.place, Memory.read, hc, Ne.symm h]

theorem Memory.read_place_same (m : Memory) (a : Nat) (v : Byte) : Memory.read (Memory.place m a v) a = v := by
  induction m with
  | nil => simp [Memory.place, Memory.read]
  | cons c rest ih =>
    by_cases hc : c.1 < a
    · have : c.1 ≠ a := by omega
      simp [Memory.place, Memory.read, hc, ih, this]
    · simp [Memory.place, Memory.read, hc]

/-- What a read finds after a write, at any address, in any memory. -/
theorem Memory.read_write (m : Memory) (a b : Nat) (v : Byte) :
    Memory.read (Memory.write m a v) b = if b = a then v else Memory.read m b := by
  unfold Memory.write
  by_cases hv : v = Memory.unlisted
  · by_cases h : b = a
    · subst h; simp [hv, Memory.read_without_same]
    · simp [hv, h, Memory.read_without_other m h]
  · by_cases h : b = a
    · subst h; simp [hv, Memory.read_place_same]
    · simp [hv, h, Memory.read_place_other _ _ h, Memory.read_without_other m h]

/-! ### The canonical form -/

theorem Memory.wf_cons (c : Host.Cell) (rest : Memory) : Memory.wf (c :: rest) = true ↔
    c.1 < 65536 ∧ c.2 ≠ Memory.unlisted ∧ (∀ d ∈ rest, c.1 < d.1) ∧ Memory.wf rest = true := by
  simp [Memory.wf, and_assoc, List.all_eq_true]

theorem Memory.wf_without {m : Memory} (h : Memory.wf m = true) (a : Nat) : Memory.wf (Memory.without m a) = true := by
  induction m with
  | nil => rfl
  | cons c rest ih =>
    obtain ⟨h1, h2, h3, h4⟩ := (Memory.wf_cons c rest).1 h
    by_cases hc : c.1 = a
    · have : Memory.without (c :: rest) a = Memory.without rest a := by simp [Memory.without, hc]
      rw [this]; exact ih h4
    · have : Memory.without (c :: rest) a = c :: Memory.without rest a := by simp [Memory.without, hc]
      rw [this, Memory.wf_cons]
      exact ⟨h1, h2, fun d hd => h3 d (List.mem_of_mem_filter hd), ih h4⟩

theorem Memory.mem_place {m : Memory} {a : Nat} {v : Byte} {d : Host.Cell} (h : d ∈ Memory.place m a v) :
    d = (a, v) ∨ d ∈ m := by
  induction m with
  | nil => simpa [Memory.place] using h
  | cons c rest ih =>
    by_cases hc : c.1 < a
    · simp only [Memory.place, hc, if_true, List.mem_cons] at h
      rcases h with h | h
      · exact .inr (by simp [h])
      · rcases ih h with e | e
        · exact .inl e
        · exact .inr (by simp [e])
    · simpa [Memory.place, hc] using h

theorem Memory.wf_place {m : Memory} (h : Memory.wf m = true) {a : Nat} {v : Byte} (ha : a < 65536)
    (hv : v ≠ Memory.unlisted) (hm : ∀ c ∈ m, c.1 ≠ a) : Memory.wf (Memory.place m a v) = true := by
  induction m with
  | nil => simp [Memory.place, Memory.wf, ha, hv]
  | cons c rest ih =>
    obtain ⟨h1, h2, h3, h4⟩ := (Memory.wf_cons c rest).1 h
    have hca : c.1 ≠ a := hm c (by simp)
    by_cases hc : c.1 < a
    · have : Memory.place (c :: rest) a v = c :: Memory.place rest a v := by simp [Memory.place, hc]
      rw [this, Memory.wf_cons]
      refine ⟨h1, h2, fun d hd => ?_, ih h4 (fun d hd => hm d (by simp [hd]))⟩
      rcases Memory.mem_place hd with e | e
      · subst e; exact hc
      · exact h3 d e
    · have : Memory.place (c :: rest) a v = (a, v) :: c :: rest := by simp [Memory.place, hc]
      rw [this, Memory.wf_cons]
      refine ⟨ha, hv, fun d hd => ?_, h⟩
      have : a < c.1 := by omega
      rcases List.mem_cons.1 hd with e | e
      · subst e; exact this
      · exact lt_trans this (h3 d e)

/-- A write keeps the canonical form. -/
theorem Memory.wf_write {m : Memory} (h : Memory.wf m = true) {a : Nat} (ha : a < 65536) (v : Byte) :
    Memory.wf (Memory.write m a v) = true := by
  unfold Memory.write
  split
  · exact Memory.wf_without h a
  · rename_i hv
    refine Memory.wf_place (Memory.wf_without h a) ha hv fun c hc => ?_
    simpa using (List.mem_filter.1 hc).2

end Sys2Proof.Machine
end

