-- ==== Sys2Proof/Laws/Ops.lean ====
section
/-! SUPPORT. One lemma per shared operation that says what it can do; a claim cites these and does not unfold the operation. -/

namespace Sys2Proof.Machine

/-! ### Reads and writes of memory -/

theorem State.kindAt_congr {s t : State} (h : t.env = s.env) (a : Word) : t.kindAt a = s.kindAt a := by
  simp [State.kindAt, h]

theorem State.holdsMemory_congr {s t : State} (h : t.env = s.env) (a : Word) : t.holdsMemory a = s.holdsMemory a := by
  simp [State.holdsMemory, State.kindAt_congr h]

theorem State.holdsMemory_iff (a : Word) (s : State) :
    s.holdsMemory a = true ↔ s.kindAt a = .ram ∨ s.kindAt a = .rom := by
  unfold State.holdsMemory
  cases s.kindAt a <;> simp

theorem State.holdsMemory_of_ram {a : Word} {s : State} (h : s.kindAt a = .ram) : s.holdsMemory a = true :=
  (State.holdsMemory_iff a s).2 (.inl h)

/-- Where there is memory, a read returns its contents. -/
theorem State.byteAt_of_holdsMemory {a : Word} {s : State} (h : s.holdsMemory a = true) :
    s.byteAt a = Memory.read s.mem a.toNat := by
  rcases (State.holdsMemory_iff a s).1 h with h | h <;> simp [State.byteAt, h]

/-- Where there is memory, a read has no side effect. -/
theorem State.afterRead_of_holdsMemory {a : Word} {s : State} (h : s.holdsMemory a = true) : s.afterRead a = s := by
  simp [State.afterRead, h]

/-- What a read returns depends on memory, the map, and the history alone. -/
theorem State.byteAt_congr {s t : State} (hmem : t.mem = s.mem) (hev : t.events = s.events) (henv : t.env = s.env)
    (a : Word) : t.byteAt a = s.byteAt a := by
  unfold State.byteAt State.history
  rw [State.kindAt_congr henv, hmem, hev, henv]

theorem State.afterRead_events (a : Word) (s : State) :
    (s.afterRead a).events = if s.holdsMemory a then s.events else s.events ++ [.busRead a (s.byteAt a)] := by
  unfold State.afterRead
  split <;> simp

/-- What memory holds after a byte is stored: the byte, where there is RAM; every other address reads as before. -/
theorem State.memWrite_read (a : Word) (v : Byte) (s : State) (x : Nat) :
    Memory.read (s.memWrite a v).mem x =
      if x = a.toNat ∧ s.kindAt a = .ram then v else Memory.read s.mem x := by
  unfold State.memWrite
  split <;> rename_i h <;> simp [h, Memory.read_write]

theorem State.memWrite_events (a : Word) (v : Byte) (s : State) :
    (s.memWrite a v).events = if s.kindAt a = .device then s.events ++ [.busWrite a v] else s.events := by
  unfold State.memWrite
  split <;> rename_i h <;> simp [h]

theorem State.memWrite_wf {s : State} (h : Memory.wf s.mem = true) (a : Word) (v : Byte) :
    Memory.wf (s.memWrite a v).mem = true := by
  unfold State.memWrite
  split
  · exact Memory.wf_write h a.isLt v
  all_goals exact h

/-! ### The stack -/

/-- What memory holds after a push: the high-order byte at SP-1, the low-order byte at SP-2, each where there is RAM. -/
theorem State.push16_read (v : Word) (s : State) (x : Nat) :
    Memory.read (s.push16 v).mem x =
      if x = (s.sp - 2).toNat ∧ s.kindAt (s.sp - 2) = .ram then loByte v
      else if x = (s.sp - 1).toNat ∧ s.kindAt (s.sp - 1) = .ram then hiByte v
      else Memory.read s.mem x := by
  have e : s.sp - 1#16 - 1#16 = s.sp - 2#16 := by bv_omega
  have k (u : State) (h : u.env = s.env) (a : Word) : u.kindAt a = s.kindAt a := State.kindAt_congr h a
  simp only [State.push16, State.memWrite_read, State.memWrite_sp, BitVec.ofNat_eq_ofNat, e]
  rw [k _ (by simp)]
  rfl

theorem State.push16_wf {s : State} (h : Memory.wf s.mem = true) (v : Word) : Memory.wf (s.push16 v).mem = true := by
  unfold State.push16
  refine State.memWrite_wf ?_ _ _
  exact State.memWrite_wf (s := { s with sp := s.sp - 1 }) h _ _

/-- A push where no device is leaves no event. -/
theorem State.push16_events {s : State} (h1 : s.kindAt (s.sp - 1) ≠ .device) (h2 : s.kindAt (s.sp - 2) ≠ .device)
    (v : Word) : (s.push16 v).events = s.events := by
  have e : s.sp - 1#16 - 1#16 = s.sp - 2#16 := by bv_omega
  simp only [State.kindAt, BitVec.ofNat_eq_ofNat] at h1 h2
  simp [State.push16, State.memWrite_events, State.kindAt, e, h1, h2]

/-- What a pop answers where there is memory. -/
theorem State.pop16_fst {s : State} (h1 : s.holdsMemory s.sp = true) (h2 : s.holdsMemory (s.sp + 1) = true) :
    s.pop16.1 = wordOf (Memory.read s.mem (s.sp + 1).toNat) (Memory.read s.mem s.sp.toNat) := by
  have k2 : ({ s with sp := s.sp + 1 } : State).holdsMemory (s.sp + 1) = true := h2
  simp only [State.pop16, State.memRead_fst, State.memRead_snd, State.afterRead_of_holdsMemory h1,
    State.byteAt_of_holdsMemory h1, State.byteAt_of_holdsMemory k2]

/-- A pop from memory leaves no event. -/
theorem State.pop16_events {s : State} (h1 : s.holdsMemory s.sp = true) (h2 : s.holdsMemory (s.sp + 1) = true) :
    s.pop16.2.events = s.events := by
  have k2 : ({ s with sp := s.sp + 1 } : State).holdsMemory (s.sp + 1) = true := h2
  simp only [State.pop16, State.memRead_snd, State.afterRead_of_holdsMemory h1, State.afterRead_of_holdsMemory k2]

/-- What a push stores depends on SP, memory and the map only. -/
theorem State.push16_mem_congr {s t : State} (hsp : t.sp = s.sp) (hmem : t.mem = s.mem) (henv : t.env = s.env) (v : Word) :
    (t.push16 v).mem = (s.push16 v).mem := by
  have w (a : Word) (x : Byte) (s t : State) (hm : t.mem = s.mem) (he : t.env = s.env) :
      (t.memWrite a x).mem = (s.memWrite a x).mem := by
    unfold State.memWrite
    rw [State.kindAt_congr he]
    cases s.kindAt a <;> simp [hm]
  unfold State.push16
  simp only [State.memWrite_sp, hsp]
  exact w _ _ _ _ (w _ _ _ _ hmem henv) (by simp [henv])

theorem State.pop16_fst_eq (s : State) :
    s.pop16.1 = wordOf ((s.afterRead s.sp).byteAt (s.sp + 1)) (s.byteAt s.sp) := by
  simp only [State.pop16, State.memRead_fst, State.memRead_snd, State.afterRead_sp]
  rfl

/-! ### Operands -/

theorem State.readOperand_fst (o : Operand) (s : State) : (s.readOperand o).1 = Safety.operandValue o s := by
  cases o <;> rfl

/-- Reading an operand that is a register, or a byte of memory, changes nothing. -/
theorem State.readOperand_snd {o : Operand} {s : State} (h : ∀ a ∈ Safety.operandReads o s, s.holdsMemory a = true) :
    (s.readOperand o).2 = s := by
  cases o with
  | reg r => rfl
  | m => exact State.afterRead_of_holdsMemory (h s.hl (by simp [Safety.operandReads]))

/-! ### What claims are stated in -/

/-- A frame claim from equations on the fields. -/
theorem changesOnly_of {rs : List Reg} {ps : List Safety.Part} {s t : State} (regs : ∀ r, r ∉ rs → t.reg r = s.reg r)
    (sp : .sp ∈ ps ∨ t.sp = s.sp) (pc : .pc ∈ ps ∨ t.pc = s.pc) (flags : .flags ∈ ps ∨ t.flags = s.flags)
    (ctl : .ctl ∈ ps ∨ t.ctl = s.ctl) (mem : .memory ∈ ps ∨ t.mem = s.mem) (events : .events ∈ ps ∨ t.events = s.events)
    (env : t.env = s.env) : Safety.ChangesOnly rs ps s t :=
  ⟨regs, sp.resolve_left, pc.resolve_left, flags.resolve_left, ctl.resolve_left,
    fun h a => by rw [mem.resolve_left h], events.resolve_left, env⟩

/-- One byte stored. -/
theorem memoryAfter_one {a : Word} {v : Byte} {s t : State} (h : t.mem = (s.memWrite a v).mem) :
    Safety.MemoryAfter [(a, v)] s t := by
  intro x
  rw [h, State.memWrite_read]
  by_cases h1 : x = a.toNat <;> by_cases h2 : s.kindAt a = .ram <;> simp [h1, h2, List.find?, eq_comm]

/-- Two bytes stored at two addresses. -/
theorem memoryAfter_two {a b : Word} {v w : Byte} {s t : State} (hab : a ≠ b)
    (h : ∀ x, Memory.read t.mem x =
      if x = a.toNat ∧ s.kindAt a = .ram then v
      else if x = b.toNat ∧ s.kindAt b = .ram then w else Memory.read s.mem x) :
    Safety.MemoryAfter [(a, v), (b, w)] s t := by
  intro x
  rw [h]
  have hn : a.toNat ≠ b.toNat := fun e => hab (BitVec.eq_of_toNat_eq e)
  by_cases h1 : x = a.toNat <;> by_cases h2 : x = b.toNat <;> by_cases h3 : s.kindAt a = .ram <;>
    by_cases h4 : s.kindAt b = .ram <;> simp_all [List.find?, eq_comm]

/-- The bytes a push stores. -/
theorem push16_memoryAfter (v : Word) {s t : State} (h : t.mem = (s.push16 v).mem) :
    Safety.MemoryAfter [(s.sp - 2, loByte v), (s.sp - 1, hiByte v)] s t :=
  memoryAfter_two (by bv_omega) fun x => by rw [h, State.push16_read]

theorem signZeroParity_table : ∀ r : Byte, (r.getLsbD 7 = true ↔ 128 ≤ r.toNat) ∧ ((r == 0) = true ↔ r.toNat = 0) ∧
    (parityEven r = true ↔ Even ((List.range 8).countP (fun k => r.getLsbD k))) := by
  decide +kernel

/-- `set_SZP` of 00_scope.md R10 in the terms of R25: bit 7, zero, an even number of 1 bits. -/
theorem signZeroParityOf_of {r : Byte} {f : Flags} (hs : f.s = r.getLsbD 7) (hz : f.z = (r == 0)) (hp : f.p = parityEven r) :
    Safety.SignZeroParityOf r f := by
  obtain ⟨h1, h2, h3⟩ := signZeroParity_table r
  exact ⟨hs ▸ h1, hz ▸ h2, hp ▸ h3⟩

/-- The flags of `sub8` in the terms of 41_arithmetic.md R141: a borrow, and its absence out of bit 3. -/
theorem sub8_flags (a v : Byte) (b : Bool) : Safety.FlagsOfDifference a v b.toNat (sub8 a v b).1 (sub8 a v b).2 := by
  refine ⟨by simp [sub8], ?_, signZeroParityOf_of rfl rfl rfl⟩
  have h1 := b.toNat_lt
  have h2 := v.isLt
  simp [sub8]
  omega

/-! ### Interrupts -/

/-- The source taken is eligible, and none of higher priority is. -/
theorem State.pending_eligible {s : State} {x : Source} (h : s.pending = some x) : s.eligible x = true :=
  List.find?_some h

theorem State.pending_none {s : State} (h : s.pending = none) (x : Source) : s.eligible x = false := by
  have := List.find?_eq_none.1 h x (by rcases x with ⟨⟨⟩⟩ | _ <;> simp [sourcesByPriority])
  simpa using this

theorem State.enterInterrupt_wf {s : State} (h : Memory.wf s.mem = true) (target : Word) :
    Memory.wf (s.enterInterrupt target).mem = true :=
  State.push16_wf (s := { s with ctl := { s.ctl with halted := false, ie := false, eiShadow := false } }) h _

/-- The transfers an inserted instruction can make: CALL with its address, RST n with 8n (60_exceptions.md R262). -/
theorem suppliedTarget_eq (op b2 b3 : Byte) : suppliedTarget ⟨op, b2, b3⟩ =
    if op = 0xCD#8 then some (wordOf b3 b2)
    else if op &&& 0xC7#8 = 0xC7#8 then some (restartAddress (op.extractLsb' 3 3)) else none := by
  have e : op = BitVec.ofNat 8 op.toNat := by simp
  rw [e]
  have h := op.isLt
  generalize op.toNat = n at h ⊢
  interval_cases n <;> simp [suppliedTarget, decodeInstr, decodeQuarter00, decodeQuarter01, decodeQuarter10, decodeQuarter11, Operand.ofCode]

end Sys2Proof.Machine
end

