-- ==== Sys2Proof/Laws/PerInstr.lean ====
section
/-! SUPPORT. Statements made of every instruction, one lemma per constructor of `Instr`. -/

namespace Sys2Proof.Laws

/-- The opcode byte of an instruction alone tells how many bytes the instruction has (30_encoding.md R80). -/
def EncodingLength.Statement (i : Instr) : Prop :=
  i.wellFormed = true → (encode i).head?.map instrLength = some (encode i).length

theorem EncodingLength.movRR (dst src : Reg) : EncodingLength.Statement (.movRR dst src) :=
  fun _ => by cases dst <;> cases src <;> rfl
theorem EncodingLength.movRM (dst : Reg) : EncodingLength.Statement (.movRM dst) := fun _ => by cases dst <;> rfl
theorem EncodingLength.movMR (src : Reg) : EncodingLength.Statement (.movMR src) := fun _ => by cases src <;> rfl
theorem EncodingLength.mviR (dst : Reg) (data : Byte) : EncodingLength.Statement (.mviR dst data) :=
  fun _ => by cases dst <;> rfl
theorem EncodingLength.mviM (data : Byte) : EncodingLength.Statement (.mviM data) := fun _ => rfl
theorem EncodingLength.lda (addr : Word) : EncodingLength.Statement (.lda addr) := fun _ => rfl
theorem EncodingLength.ldax (p : Pair) : EncodingLength.Statement (.ldax p) :=
  fun h => by cases p <;> first | rfl | cases h
theorem EncodingLength.lxi (p : Pair) (data : Word) : EncodingLength.Statement (.lxi p data) :=
  fun _ => by cases p <;> rfl
theorem EncodingLength.lhld (addr : Word) : EncodingLength.Statement (.lhld addr) := fun _ => rfl
theorem EncodingLength.sta (addr : Word) : EncodingLength.Statement (.sta addr) := fun _ => rfl
theorem EncodingLength.stax (p : Pair) : EncodingLength.Statement (.stax p) :=
  fun h => by cases p <;> first | rfl | cases h
theorem EncodingLength.shld (addr : Word) : EncodingLength.Statement (.shld addr) := fun _ => rfl
theorem EncodingLength.xchg : EncodingLength.Statement .xchg := fun _ => rfl
theorem EncodingLength.sphl : EncodingLength.Statement .sphl := fun _ => rfl
theorem EncodingLength.xthl : EncodingLength.Statement .xthl := fun _ => rfl
theorem EncodingLength.pushRp (p : Pair) : EncodingLength.Statement (.pushRp p) := fun _ => by cases p <;> rfl
theorem EncodingLength.pushA : EncodingLength.Statement .pushA := fun _ => rfl
theorem EncodingLength.popRp (p : Pair) : EncodingLength.Statement (.popRp p) := fun _ => by cases p <;> rfl
theorem EncodingLength.popA : EncodingLength.Statement .popA := fun _ => rfl
theorem EncodingLength.outPort (port : Byte) : EncodingLength.Statement (.outPort port) := fun _ => rfl
theorem EncodingLength.inPort (port : Byte) : EncodingLength.Statement (.inPort port) := fun _ => rfl
theorem EncodingLength.add (src : Operand) : EncodingLength.Statement (.add src) :=
  fun _ => by cases src with | m => rfl | reg r => cases r <;> rfl
theorem EncodingLength.adc (src : Operand) : EncodingLength.Statement (.adc src) :=
  fun _ => by cases src with | m => rfl | reg r => cases r <;> rfl
theorem EncodingLength.sub (src : Operand) : EncodingLength.Statement (.sub src) :=
  fun _ => by cases src with | m => rfl | reg r => cases r <;> rfl
theorem EncodingLength.sbb (src : Operand) : EncodingLength.Statement (.sbb src) :=
  fun _ => by cases src with | m => rfl | reg r => cases r <;> rfl
theorem EncodingLength.adi (data : Byte) : EncodingLength.Statement (.adi data) := fun _ => rfl
theorem EncodingLength.aci (data : Byte) : EncodingLength.Statement (.aci data) := fun _ => rfl
theorem EncodingLength.sui (data : Byte) : EncodingLength.Statement (.sui data) := fun _ => rfl
theorem EncodingLength.sbi (data : Byte) : EncodingLength.Statement (.sbi data) := fun _ => rfl
theorem EncodingLength.dad (p : Pair) : EncodingLength.Statement (.dad p) := fun _ => by cases p <;> rfl
theorem EncodingLength.inr (dst : Operand) : EncodingLength.Statement (.inr dst) :=
  fun _ => by cases dst with | m => rfl | reg r => cases r <;> rfl
theorem EncodingLength.inx (p : Pair) : EncodingLength.Statement (.inx p) := fun _ => by cases p <;> rfl
theorem EncodingLength.dcr (dst : Operand) : EncodingLength.Statement (.dcr dst) :=
  fun _ => by cases dst with | m => rfl | reg r => cases r <;> rfl
theorem EncodingLength.dcx (p : Pair) : EncodingLength.Statement (.dcx p) := fun _ => by cases p <;> rfl
theorem EncodingLength.daa : EncodingLength.Statement .daa := fun _ => rfl
theorem EncodingLength.jmp (addr : Word) : EncodingLength.Statement (.jmp addr) := fun _ => rfl
theorem EncodingLength.jc (addr : Word) : EncodingLength.Statement (.jc addr) := fun _ => rfl
theorem EncodingLength.jnc (addr : Word) : EncodingLength.Statement (.jnc addr) := fun _ => rfl
theorem EncodingLength.jp (addr : Word) : EncodingLength.Statement (.jp addr) := fun _ => rfl
theorem EncodingLength.jm (addr : Word) : EncodingLength.Statement (.jm addr) := fun _ => rfl
theorem EncodingLength.jz (addr : Word) : EncodingLength.Statement (.jz addr) := fun _ => rfl
theorem EncodingLength.jnz (addr : Word) : EncodingLength.Statement (.jnz addr) := fun _ => rfl
theorem EncodingLength.jpe (addr : Word) : EncodingLength.Statement (.jpe addr) := fun _ => rfl
theorem EncodingLength.jpo (addr : Word) : EncodingLength.Statement (.jpo addr) := fun _ => rfl
theorem EncodingLength.call (addr : Word) : EncodingLength.Statement (.call addr) := fun _ => rfl
theorem EncodingLength.cc (addr : Word) : EncodingLength.Statement (.cc addr) := fun _ => rfl
theorem EncodingLength.cnc (addr : Word) : EncodingLength.Statement (.cnc addr) := fun _ => rfl
theorem EncodingLength.cp (addr : Word) : EncodingLength.Statement (.cp addr) := fun _ => rfl
theorem EncodingLength.cm (addr : Word) : EncodingLength.Statement (.cm addr) := fun _ => rfl
theorem EncodingLength.cz (addr : Word) : EncodingLength.Statement (.cz addr) := fun _ => rfl
theorem EncodingLength.cnz (addr : Word) : EncodingLength.Statement (.cnz addr) := fun _ => rfl
theorem EncodingLength.cpe (addr : Word) : EncodingLength.Statement (.cpe addr) := fun _ => rfl
theorem EncodingLength.cpo (addr : Word) : EncodingLength.Statement (.cpo addr) := fun _ => rfl
theorem EncodingLength.ret : EncodingLength.Statement .ret := fun _ => rfl
theorem EncodingLength.rc : EncodingLength.Statement .rc := fun _ => rfl
theorem EncodingLength.rnc : EncodingLength.Statement .rnc := fun _ => rfl
theorem EncodingLength.rp : EncodingLength.Statement .rp := fun _ => rfl
theorem EncodingLength.rm : EncodingLength.Statement .rm := fun _ => rfl
theorem EncodingLength.rz : EncodingLength.Statement .rz := fun _ => rfl
theorem EncodingLength.rnz : EncodingLength.Statement .rnz := fun _ => rfl
theorem EncodingLength.rpe : EncodingLength.Statement .rpe := fun _ => rfl
theorem EncodingLength.rpo : EncodingLength.Statement .rpo := fun _ => rfl
theorem EncodingLength.pchl : EncodingLength.Statement .pchl := fun _ => rfl
theorem EncodingLength.rst (n : BitVec 3) : EncodingLength.Statement (.rst n) := fun _ => by revert n; decide
theorem EncodingLength.ana (src : Operand) : EncodingLength.Statement (.ana src) :=
  fun _ => by cases src with | m => rfl | reg r => cases r <;> rfl
theorem EncodingLength.xra (src : Operand) : EncodingLength.Statement (.xra src) :=
  fun _ => by cases src with | m => rfl | reg r => cases r <;> rfl
theorem EncodingLength.ora (src : Operand) : EncodingLength.Statement (.ora src) :=
  fun _ => by cases src with | m => rfl | reg r => cases r <;> rfl
theorem EncodingLength.cmp (src : Operand) : EncodingLength.Statement (.cmp src) :=
  fun _ => by cases src with | m => rfl | reg r => cases r <;> rfl
theorem EncodingLength.ani (data : Byte) : EncodingLength.Statement (.ani data) := fun _ => rfl
theorem EncodingLength.xri (data : Byte) : EncodingLength.Statement (.xri data) := fun _ => rfl
theorem EncodingLength.ori (data : Byte) : EncodingLength.Statement (.ori data) := fun _ => rfl
theorem EncodingLength.cpi (data : Byte) : EncodingLength.Statement (.cpi data) := fun _ => rfl
theorem EncodingLength.rlc : EncodingLength.Statement .rlc := fun _ => rfl
theorem EncodingLength.rrc : EncodingLength.Statement .rrc := fun _ => rfl
theorem EncodingLength.ral : EncodingLength.Statement .ral := fun _ => rfl
theorem EncodingLength.rar : EncodingLength.Statement .rar := fun _ => rfl
theorem EncodingLength.cma : EncodingLength.Statement .cma := fun _ => rfl
theorem EncodingLength.cmc : EncodingLength.Statement .cmc := fun _ => rfl
theorem EncodingLength.stc : EncodingLength.Statement .stc := fun _ => rfl
theorem EncodingLength.nop : EncodingLength.Statement .nop := fun _ => rfl
theorem EncodingLength.hlt : EncodingLength.Statement .hlt := fun _ => rfl
theorem EncodingLength.di : EncodingLength.Statement .di := fun _ => rfl
theorem EncodingLength.ei : EncodingLength.Statement .ei := fun _ => rfl
theorem EncodingLength.rim : EncodingLength.Statement .rim := fun _ => rfl
theorem EncodingLength.sim : EncodingLength.Statement .sim := fun _ => rfl
theorem EncodingLength.undefined08 : EncodingLength.Statement .undefined08 := fun _ => rfl
theorem EncodingLength.undefined10 : EncodingLength.Statement .undefined10 := fun _ => rfl
theorem EncodingLength.undefined18 : EncodingLength.Statement .undefined18 := fun _ => rfl
theorem EncodingLength.undefined28 : EncodingLength.Statement .undefined28 := fun _ => rfl
theorem EncodingLength.undefined38 : EncodingLength.Statement .undefined38 := fun _ => rfl
theorem EncodingLength.undefinedCB : EncodingLength.Statement .undefinedCB := fun _ => rfl
theorem EncodingLength.undefinedD9 : EncodingLength.Statement .undefinedD9 := fun _ => rfl
theorem EncodingLength.undefinedDD : EncodingLength.Statement .undefinedDD := fun _ => rfl
theorem EncodingLength.undefinedED : EncodingLength.Statement .undefinedED := fun _ => rfl
theorem EncodingLength.undefinedFD : EncodingLength.Statement .undefinedFD := fun _ => rfl

end Sys2Proof.Laws
end

