-- ==== Sys2Proof/Laws/Step.lean ====
section
/-! SUPPORT. What a step can do, said once (60_exceptions.md R266). -/

namespace Sys2Proof.Machine

/-! ### Fetch -/

theorem State.afterRead_withPc (a w : Word) (u : State) :
    State.afterRead a { u with pc := w } = { u.afterRead a with pc := w } := by
  unfold State.afterRead
  split_ifs <;> first | rfl | contradiction

theorem State.byteAt_withPc (a w : Word) (u : State) : State.byteAt a { u with pc := w } = u.byteAt a :=
  State.byteAt_congr rfl rfl rfl a

theorem State.fetchByte_withPc (w : Word) (u : State) :
    State.fetchByte { u with pc := w } = (u.byteAt w, { u.afterRead w with pc := w + 1 }) := by
  unfold State.fetchByte
  simp only [State.memRead_fst, State.memRead_snd, State.afterRead_withPc, State.byteAt_withPc]

theorem instrLength_cases (op : Byte) : instrLength op = 1 ∨ instrLength op = 2 ∨ instrLength op = 3 := by
  unfold instrLength
  dsimp only
  split_ifs <;> simp

/-- A fetch reads as many bytes as the opcode says, one after another, and PC ends past them (10_state.md R24). -/
theorem State.fetchInstr_one {s : State} (h : instrLength (s.byteAt s.pc) = 1) :
    s.fetchInstr = (decodeInstr (s.byteAt s.pc) 0 0, { s.afterRead s.pc with pc := s.pc + 1 }) := by
  have e : s.fetchByte = (s.byteAt s.pc, { s.afterRead s.pc with pc := s.pc + 1 }) := State.fetchByte_withPc s.pc s
  unfold State.fetchInstr
  simp [e, h, State.fetchIf]

theorem State.fetchInstr_two {s : State} (h : instrLength (s.byteAt s.pc) = 2) :
    s.fetchInstr = (decodeInstr (s.byteAt s.pc) ((s.afterRead s.pc).byteAt (s.pc + 1)) 0,
      { (s.afterRead s.pc).afterRead (s.pc + 1) with pc := s.pc + 2 }) := by
  have e : s.fetchByte = (s.byteAt s.pc, { s.afterRead s.pc with pc := s.pc + 1 }) := State.fetchByte_withPc s.pc s
  have e2 : s.pc + 1 + 1 = s.pc + 2 := by bv_omega
  unfold State.fetchInstr
  rw [e]
  dsimp only
  rw [h]
  unfold State.fetchIf
  rw [if_pos (by decide), State.fetchByte_withPc, e2]
  rfl

theorem State.fetchInstr_three {s : State} (h : instrLength (s.byteAt s.pc) = 3) :
    s.fetchInstr = (decodeInstr (s.byteAt s.pc) ((s.afterRead s.pc).byteAt (s.pc + 1))
        (((s.afterRead s.pc).afterRead (s.pc + 1)).byteAt (s.pc + 2)),
      { ((s.afterRead s.pc).afterRead (s.pc + 1)).afterRead (s.pc + 2) with pc := s.pc + 3 }) := by
  have e : s.fetchByte = (s.byteAt s.pc, { s.afterRead s.pc with pc := s.pc + 1 }) := State.fetchByte_withPc s.pc s
  have e2 : s.pc + 1 + 1 = s.pc + 2 := by bv_omega
  have e3 : s.pc + 2 + 1 = s.pc + 3 := by bv_omega
  unfold State.fetchInstr
  rw [e]
  dsimp only
  rw [h]
  unfold State.fetchIf
  rw [if_pos (by decide), if_pos (by decide), State.fetchByte_withPc, e2, State.fetchByte_withPc, e3]

/-! ### The step -/

/-- If a step answers a next state, it was a reset event, an interrupt entry, a wait in the halt state, or an instruction. -/
theorem step_cases {s t : State} (h : step s = .next t) :
    (s.presentInputs.env.pins.reset = true ∧ t = s.presentInputs.resetEvent) ∨
    (s.presentInputs.env.pins.reset = false ∧
      ∃ x, s.presentInputs.pending = some (.internal x) ∧ t = s.presentInputs.takeInternal x) ∨
    (s.presentInputs.env.pins.reset = false ∧ s.presentInputs.pending = some .intr ∧
      ∃ target, suppliedTarget s.presentInputs.intaBytes = some target ∧
        t = (s.presentInputs.note (.intAck s.presentInputs.intaBytes)).enterInterrupt target) ∨
    (s.presentInputs.env.pins.reset = false ∧ s.presentInputs.pending = none ∧ s.ctl.halted = true ∧
      t = s.presentInputs) ∨
    (Safety.RunsInstruction s ∧
      ∃ u, exec s.presentInputs.fetchInstr.1 s.presentInputs.fetchInstr.2 = .next u ∧
        t = u.closeShadow s.presentInputs.fetchInstr.1) := by
  unfold step State.machineStep State.boundaryStep at h
  generalize hp : s.presentInputs = p at h ⊢
  have hh : p.ctl.halted = s.ctl.halted := by rw [← hp]; rfl
  by_cases hr : p.env.pins.reset = true
  · rw [if_pos hr] at h
    exact .inl ⟨hr, (Host.Outcome.next.inj h).symm⟩
  have hr' : p.env.pins.reset = false := by simpa using hr
  rw [if_neg hr] at h
  cases hq : p.pending with
  | some x =>
    rw [hq] at h
    cases x with
    | internal y => exact .inr (.inl ⟨hr', y, rfl, (Host.Outcome.next.inj h).symm⟩)
    | intr =>
      simp only [State.takeInterrupt, State.takeIntr] at h
      split at h
      · rename_i target ht
        exact .inr (.inr (.inl ⟨hr', rfl, target, ht, (Host.Outcome.next.inj h).symm⟩))
      · cases h
  | none =>
    rw [hq] at h
    dsimp only at h
    by_cases hl : p.ctl.halted = true
    · rw [if_pos hl] at h
      exact .inr (.inr (.inr (.inl ⟨hr', rfl, hh ▸ hl, (Host.Outcome.next.inj h).symm⟩)))
    · rw [if_neg hl] at h
      have hl' : s.ctl.halted = false := by rw [← hh]; simpa using hl
      unfold State.runInstr at h
      split at h
      · rename_i u hu
        exact .inr (.inr (.inr (.inr ⟨by
          simp only [Safety.RunsInstruction, hp]; exact ⟨hr', hq, hl'⟩, u, hu, (Host.Outcome.next.inj h).symm⟩)))
      · cases h
      · cases h

/-- When the boundary lets an instruction run, the step is that instruction's meaning, EI_SHADOW set by what it was. -/
theorem step_runsInstruction {s : State} (h : Safety.RunsInstruction s) :
    step s = s.presentInputs.fetchInstr.2.runInstr s.presentInputs.fetchInstr.1 := by
  obtain ⟨h1, h2, h3⟩ := h
  have h4 : s.presentInputs.ctl.halted = false := h3
  simp only [step, State.machineStep, State.boundaryStep, h1, h2, h4]
  simp

end Sys2Proof.Machine
end

