-- ==== Sys2Proof/Laws/Run.lean ====
section
/-! SUPPORT. What halted for good means (70_reset_and_hazards.md R305, 60_exceptions.md R269), and which events the shared
accesses record, in the terms of Safety.lean. -/

namespace Sys2Proof.Safety

open Sys2Proof.Machine

/-! ### The quiet tail -/

theorem quietTail_of_nil {s : State} (h : s.env.schedule = []) :
    quietTail s = { s with env := { s.env with schedule := [EnvRecord.quiet] } } := by
  unfold quietTail
  rw [h]

theorem quietTail_of_ne_nil {s : State} (h : s.env.schedule ≠ []) : quietTail s = s := by
  unfold quietTail
  split
  · contradiction
  · rfl

@[simp] theorem quietTail_ctl (s : State) : (quietTail s).ctl = s.ctl := by unfold quietTail; split <;> rfl

@[simp] theorem quietTail_regs (s : State) : (quietTail s).regs = s.regs := by unfold quietTail; split <;> rfl

@[simp] theorem quietTail_sp (s : State) : (quietTail s).sp = s.sp := by unfold quietTail; split <;> rfl

@[simp] theorem quietTail_pc (s : State) : (quietTail s).pc = s.pc := by unfold quietTail; split <;> rfl

@[simp] theorem quietTail_flags (s : State) : (quietTail s).flags = s.flags := by unfold quietTail; split <;> rfl

@[simp] theorem quietTail_mem (s : State) : (quietTail s).mem = s.mem := by unfold quietTail; split <;> rfl

@[simp] theorem quietTail_events (s : State) : (quietTail s).events = s.events := by unfold quietTail; split <;> rfl

/-- One boundary takes one record off the schedule, or the quiet one. -/
theorem schedule_after_boundary (s : State) :
    (quietTail s).presentInputs.env.schedule.length = s.env.schedule.length - 1 := by
  cases h : s.env.schedule with
  | nil => rw [quietTail_of_nil h]; rfl
  | cons r rest => rw [quietTail_of_ne_nil (by simp [h]), State.presentInputs_schedule, h]; rfl

/-! ### Halted for good -/

/-- Whether a boundary wakes the machine depends on the control state and the record presented. -/
theorem wakes_congr {s t : State} (hctl : t.ctl = s.ctl) (hrec : t.nextRecord = s.nextRecord) : wakes t = wakes s := by
  have hp : t.presentInputs.env.pins = s.presentInputs.env.pins := hrec
  have hc : t.presentInputs.ctl = s.presentInputs.ctl := by simp [hctl, hrec]
  have he : t.presentInputs.eligible = s.presentInputs.eligible := by
    funext x
    rcases x with ⟨⟨⟩⟩ | _ <;> simp only [State.eligible, State.accepting, hp, hc]
  unfold wakes State.pending
  rw [hp, he]

/-- A quiet boundary leaves the control state as it is, so the next one wakes the machine only if it does. -/
theorem wakes_after_quiet {s : State} (h : s.env.schedule = []) :
    wakes (quietTail (quietTail s).presentInputs) = wakes (quietTail s) := by
  have h' : (quietTail s).presentInputs.env.schedule = [] := by rw [quietTail_of_nil h]; rfl
  have hr {u : State} (hu : u.env.schedule = []) : (quietTail u).nextRecord = EnvRecord.quiet := by
    rw [quietTail_of_nil hu]; rfl
  refine wakes_congr ?_ (by rw [hr h', hr h])
  rw [quietTail_ctl, quietTail_ctl, State.presentInputs_ctl, hr h, quietTail_ctl]
  simp [EnvRecord.quiet, EnvRecord.ofIrq, IrqInputs.quiet]

/-- Past the schedule one quiet boundary speaks for all. -/
theorem sleepsFor_of_quiet (n : Nat) {s : State} (h : s.env.schedule = []) (hw : wakes (quietTail s) = false) :
    sleepsFor n s = true := by
  induction n generalizing s with
  | zero => rfl
  | succ k ih =>
    have h' : (quietTail s).presentInputs.env.schedule = [] := by rw [quietTail_of_nil h]; rfl
    simp only [sleepsFor, hw, Bool.not_false, Bool.true_and]
    exact ih h' (by rw [wakes_after_quiet h, hw])

theorem sleepsFor_of_length {s : State} (h : sleepsFor (s.env.schedule.length + 1) s = true) (n : Nat) :
    sleepsFor n s = true := by
  induction n generalizing s with
  | zero => rfl
  | succ k ih =>
    simp only [sleepsFor, Bool.and_eq_true, Bool.not_eq_true'] at h ⊢
    refine ⟨h.1, ?_⟩
    by_cases he : s.env.schedule = []
    · have h' : (quietTail s).presentInputs.env.schedule = [] := by rw [quietTail_of_nil he]; rfl
      exact sleepsFor_of_quiet k h' (by rw [wakes_after_quiet he, h.1])
    · refine ih ?_
      have hl : 0 < s.env.schedule.length := List.length_pos_iff.2 he
      rw [schedule_after_boundary, Nat.sub_add_cancel hl]
      exact h.2

/-- A final state sleeps through any number of boundaries. -/
theorem sleepsFor_of_isFinal {s : State} (h : isFinal s = true) (n : Nat) : sleepsFor n s = true := by
  simp only [isFinal, Bool.and_eq_true] at h
  exact sleepsFor_of_length h.2 n

/-- A halted machine that nothing wakes only has its inputs presented. -/
theorem quietStep_of_asleep {s : State} (hh : s.ctl.halted = true) (hw : wakes (quietTail s) = false) :
    quietStep s = .next (quietTail s).presentInputs := by
  simp only [wakes, Bool.or_eq_false_iff, Option.isSome_eq_false_iff, Option.isNone_iff_eq_none] at hw
  have hl : (quietTail s).presentInputs.ctl.halted = true := by simp [hh]
  simp only [quietStep, step, State.machineStep, State.boundaryStep, hw.1, hw.2, hl]
  simp

/-- What `isFinal` promises (R305, outcome 1): under the schedule and its quiet tail the machine is halted after any number of
steps, and no register, flag, byte of memory or event is other than it was. -/
theorem quietRun_of_isFinal {s : State} (h : isFinal s = true) (n : Nat) :
    ∃ t, quietRun n s = .next t ∧ t.ctl.halted = true ∧ t.regs = s.regs ∧ t.sp = s.sp ∧ t.pc = s.pc ∧
      t.flags = s.flags ∧ t.mem = s.mem ∧ t.events = s.events := by
  have hh : s.ctl.halted = true := by simp only [isFinal, Bool.and_eq_true] at h; exact h.1
  have hs := sleepsFor_of_isFinal h n
  clear h
  induction n generalizing s with
  | zero => exact ⟨s, rfl, hh, rfl, rfl, rfl, rfl, rfl, rfl⟩
  | succ k ih =>
    simp only [sleepsFor, Bool.and_eq_true, Bool.not_eq_true'] at hs
    obtain ⟨t, ht, h⟩ := ih (s := (quietTail s).presentInputs) (by simp [hh]) hs.2
    refine ⟨t, ?_, by simpa using h⟩
    rw [quietRun, quietStep_of_asleep hh hs.1]
    exact ht

/-- `runToEnd` answers `halted` at final states only. -/
theorem isFinal_of_runToEnd {n : Nat} {s t : State} (h : runToEnd n s = .halted t) : isFinal t = true := by
  induction n generalizing s with
  | zero =>
    unfold runToEnd at h
    split at h
    · rename_i hf; cases h; exact hf
    · cases h
  | succ k ih =>
    unfold runToEnd at h
    split at h
    · rename_i hf; cases h; exact hf
    · dsimp only at h
      split at h
      · exact ih h
      · cases h
      · cases h

/-! ### The events of the shared accesses -/

theorem visible_congr {s t : State} (h : t.env = s.env) : visible t = visible s := by
  funext e
  cases e <;> simp only [visible, State.holdsMemory_congr h, State.kindAt_congr h]

theorem afterRead_records (a : Word) (s : State) :
    (s.afterRead a).events = s.events ++ [Event.busRead a (s.byteAt a)].filter (visible s) := by
  rw [State.afterRead_events]
  cases h : s.holdsMemory a <;> simp [visible, h]

theorem memWrite_records (a : Word) (v : Byte) (s : State) :
    (s.memWrite a v).events = s.events ++ [Event.busWrite a v].filter (visible s) := by
  rw [State.memWrite_events]
  by_cases h : s.kindAt a = .device <;> simp [visible, h]

theorem push16_records (v : Word) (s : State) :
    (s.push16 v).events = s.events ++ (writesPush v s).filter (visible s) := by
  let s1 := State.memWrite (s.sp - 1) (hiByte v) { s with sp := s.sp - 1 }
  have h1 : s1.events = s.events ++ [Event.busWrite (s.sp - 1) (hiByte v)].filter (visible s) :=
    memWrite_records (s.sp - 1) (hiByte v) { s with sp := s.sp - 1 }
  have hsp : s1.sp - 1 = s.sp - 2 := by
    have e : s1.sp = s.sp - 1 := by simp [s1]
    rw [e]; bv_omega
  have henv : ({ s1 with sp := s1.sp - 1 } : State).env = s.env := by simp [s1]
  refine (memWrite_records (s1.sp - 1) (loByte v) { s1 with sp := s1.sp - 1 }).trans ?_
  rw [visible_congr henv, hsp, show ({ s1 with sp := s.sp - 2 } : State).events = s1.events from rfl, h1,
    List.append_assoc, ← List.filter_append]
  rfl

theorem readsTwo_records (a : Word) (s : State) :
    ((s.afterRead a).afterRead (a + 1)).events = s.events ++ (readsTwo a s).filter (visible s) := by
  rw [afterRead_records (a + 1), visible_congr (State.afterRead_env a s), afterRead_records a, List.append_assoc,
    ← List.filter_append]
  rfl

theorem afterRead_withSp (a w : Word) (u : State) :
    State.afterRead a { u with sp := w } = { u.afterRead a with sp := w } := by
  unfold State.afterRead
  split_ifs <;> first | rfl | contradiction

theorem pop16_records (s : State) : s.pop16.2.events = s.events ++ (readsTwo s.sp s).filter (visible s) := by
  rw [← readsTwo_records]
  unfold State.pop16
  simp only [State.memRead_snd, State.afterRead_sp, afterRead_withSp]

end Sys2Proof.Safety
end

