-- ==== Sys2Proof/Machine/Asm.lean ====
section
/-! DEFINITION. The assembler statement of each instruction, in the source's own names (30_encoding.md R90, R91; D35). It gives no
instruction any meaning; nothing of the machine depends on it. -/

namespace Sys2Proof.Machine

/-- One hexadecimal digit. -/
def hexDigit (n : Nat) : String :=
  match n with
  | 0 => "0" | 1 => "1" | 2 => "2" | 3 => "3" | 4 => "4" | 5 => "5" | 6 => "6" | 7 => "7"
  | 8 => "8" | 9 => "9" | 10 => "A" | 11 => "B" | 12 => "C" | 13 => "D" | 14 => "E" | _ => "F"

/-- The low `k` hexadecimal digits of a number. -/
def digits (k n : Nat) : String :=
  match k with
  | 0 => ""
  | k + 1 => digits k (n / 16) ++ hexDigit (n % 16)

/-- 8-bit data or a port: two digits and the suffix H, no leading zero (R90). -/
def hexByte (v : Byte) : String := digits 2 v.toNat ++ "H"

/-- A 16-bit address or data: four digits and the suffix H (R90). -/
def hexWord (v : Word) : String := digits 4 v.toNat ++ "H"

/-- A register's name (R90). -/
def Reg.asmName : Reg → String
  | .b => "B" | .c => "C" | .d => "D" | .e => "E" | .h => "H" | .l => "L" | .a => "A"

/-- A register, or M (R90). -/
def Operand.asmName : Operand → String
  | .reg r => Reg.asmName r
  | .m => "M"

/-- A pair by its high-order register, or SP (R90). -/
def Pair.asmName : Pair → String
  | .bc => "B" | .de => "D" | .hl => "H" | .sp => "SP"

/-- The statement: mnemonic, then the operands, destination first, separated by a comma (R90); the unassigned bytes have none
(R88, R91). -/
def assembly (i : Instr) : Option String :=
  match i with
  | .movRR dst src => some ("MOV " ++ Reg.asmName dst ++ ", " ++ Reg.asmName src)
  | .movRM dst => some ("MOV " ++ Reg.asmName dst ++ ", M")
  | .movMR src => some ("MOV M, " ++ Reg.asmName src)
  | .mviR dst data => some ("MVI " ++ Reg.asmName dst ++ ", " ++ hexByte data)
  | .mviM data => some ("MVI M, " ++ hexByte data)
  | .lda addr => some ("LDA " ++ hexWord addr)
  | .ldax p => some ("LDAX " ++ Pair.asmName p)
  | .lxi p data => some ("LXI " ++ Pair.asmName p ++ ", " ++ hexWord data)
  | .lhld addr => some ("LHLD " ++ hexWord addr)
  | .sta addr => some ("STA " ++ hexWord addr)
  | .stax p => some ("STAX " ++ Pair.asmName p)
  | .shld addr => some ("SHLD " ++ hexWord addr)
  | .xchg => some "XCHG"
  | .sphl => some "SPHL"
  | .xthl => some "XTHL"
  | .pushRp p => some ("PUSH " ++ Pair.asmName p)
  | .pushA => some "PUSH A"
  | .popRp p => some ("POP " ++ Pair.asmName p)
  | .popA => some "POP A"
  | .outPort port => some ("OUT " ++ hexByte port)
  | .inPort port => some ("IN " ++ hexByte port)
  | .add src => some ("ADD " ++ Operand.asmName src)
  | .adc src => some ("ADC " ++ Operand.asmName src)
  | .sub src => some ("SUB " ++ Operand.asmName src)
  | .sbb src => some ("SBB " ++ Operand.asmName src)
  | .adi data => some ("ADI " ++ hexByte data)
  | .aci data => some ("ACI " ++ hexByte data)
  | .sui data => some ("SUI " ++ hexByte data)
  | .sbi data => some ("SBI " ++ hexByte data)
  | .dad p => some ("DAD " ++ Pair.asmName p)
  | .inr dst => some ("INR " ++ Operand.asmName dst)
  | .inx p => some ("INX " ++ Pair.asmName p)
  | .dcr dst => some ("DCR " ++ Operand.asmName dst)
  | .dcx p => some ("DCX " ++ Pair.asmName p)
  | .daa => some "DAA"
  | .jmp addr => some ("JMP " ++ hexWord addr)
  | .jc addr => some ("JC " ++ hexWord addr)
  | .jnc addr => some ("JNC " ++ hexWord addr)
  | .jp addr => some ("JP " ++ hexWord addr)
  | .jm addr => some ("JM " ++ hexWord addr)
  | .jz addr => some ("JZ " ++ hexWord addr)
  | .jnz addr => some ("JNZ " ++ hexWord addr)
  | .jpe addr => some ("JPE " ++ hexWord addr)
  | .jpo addr => some ("JPO " ++ hexWord addr)
  | .call addr => some ("CALL " ++ hexWord addr)
  | .cc addr => some ("CC " ++ hexWord addr)
  | .cnc addr => some ("CNC " ++ hexWord addr)
  | .cp addr => some ("CP " ++ hexWord addr)
  | .cm addr => some ("CM " ++ hexWord addr)
  | .cz addr => some ("CZ " ++ hexWord addr)
  | .cnz addr => some ("CNZ " ++ hexWord addr)
  | .cpe addr => some ("CPE " ++ hexWord addr)
  | .cpo addr => some ("CPO " ++ hexWord addr)
  | .ret => some "RET"
  | .rc => some "RC"
  | .rnc => some "RNC"
  | .rp => some "RP"
  | .rm => some "RM"
  | .rz => some "RZ"
  | .rnz => some "RNZ"
  | .rpe => some "RPE"
  | .rpo => some "RPO"
  | .pchl => some "PCHL"
  | .rst n => some ("RST " ++ digits 1 n.toNat)
  | .ana src => some ("ANA " ++ Operand.asmName src)
  | .xra src => some ("XRA " ++ Operand.asmName src)
  | .ora src => some ("ORA " ++ Operand.asmName src)
  | .cmp src => some ("CMP " ++ Operand.asmName src)
  | .ani data => some ("ANI " ++ hexByte data)
  | .xri data => some ("XRI " ++ hexByte data)
  | .ori data => some ("ORI " ++ hexByte data)
  | .cpi data => some ("CPI " ++ hexByte data)
  | .rlc => some "RLC"
  | .rrc => some "RRC"
  | .ral => some "RAL"
  | .rar => some "RAR"
  | .cma => some "CMA"
  | .cmc => some "CMC"
  | .stc => some "STC"
  | .nop => some "NOP"
  | .hlt => some "HLT"
  | .di => some "DI"
  | .ei => some "EI"
  | .rim => some "RIM"
  | .sim => some "SIM"
  | .undefined08 => none
  | .undefined10 => none
  | .undefined18 => none
  | .undefined28 => none
  | .undefined38 => none
  | .undefinedCB => none
  | .undefinedD9 => none
  | .undefinedDD => none
  | .undefinedED => none
  | .undefinedFD => none

end Sys2Proof.Machine
end

