-- ==== Sys2Proof/Tests/Slice0.lean ====
section
/-! SUPPORT. The model's own tests. Expected results are the spec's: the words of 30_encoding.md and spec/opcode_table.json, the
vectors V, scenarios I and tables T of 95_test_vectors.md, which each theorem's name gives. The last part meets the hypotheses
of the statements of Certificates/Slice0/Obligations.lean on concrete states. -/

namespace Sys2Proof.Tests

open Sys2Proof Sys2Proof.Machine Sys2Proof.Safety

/-! ### Well-formedness: what 30_encoding.md R82 does not give a pair is refused, its neighbour accepted -/

theorem test_ldax_h_is_ill_formed : Instr.wellFormed (.ldax .hl) = false ∧ Instr.wellFormed (.ldax .sp) = false := by decide

theorem test_stax_h_is_ill_formed : Instr.wellFormed (.stax .hl) = false ∧ Instr.wellFormed (.stax .sp) = false := by decide

theorem test_push_sp_is_ill_formed : Instr.wellFormed (.pushRp .sp) = false := by decide

theorem test_pop_sp_is_ill_formed : Instr.wellFormed (.popRp .sp) = false := by decide

theorem test_neighbours_are_well_formed : Instr.wellFormed (.ldax .de) = true ∧ Instr.wellFormed (.stax .bc) = true ∧
    Instr.wellFormed (.pushRp .hl) = true ∧ Instr.wellFormed (.popRp .de) = true ∧
    Instr.wellFormed (.lxi .sp 0x20F0#16) = true := by decide

/-! ### Decoding: for every constructor a word written out from the encoding column of spec/opcode_table.json -/

/-- The one instruction a string of bytes is, if it is one with nothing left over. -/
def reads (bytes : List Byte) : Option Instr :=
  match decode bytes with
  | .ok (i, []) => some i
  | .ok (_, _ :: _) => none
  | .error _ => none

theorem test_decode_data_transfer : ∀ x ∈ [
      ([0b01100001#8], Instr.movRR .h .c), ([0b01011110#8], .movRM .e), ([0b01110111#8], .movMR .a),
      ([0b00101110#8, 0x5A#8], .mviR .l 0x5A#8), ([0b00110110#8, 0x5A#8], .mviM 0x5A#8),
      ([0b00111010#8, 0x34#8, 0x12#8], .lda 0x1234#16), ([0b00011010#8], .ldax .de),
      ([0b00110001#8, 0x34#8, 0x12#8], .lxi .sp 0x1234#16), ([0b00101010#8, 0x34#8, 0x12#8], .lhld 0x1234#16),
      ([0b00110010#8, 0x34#8, 0x12#8], .sta 0x1234#16), ([0b00000010#8], .stax .bc),
      ([0b00100010#8, 0x34#8, 0x12#8], .shld 0x1234#16), ([0b11101011#8], .xchg), ([0b11111001#8], .sphl),
      ([0b11100011#8], .xthl), ([0b11100101#8], .pushRp .hl), ([0b11110101#8], .pushA), ([0b11010001#8], .popRp .de),
      ([0b11110001#8], .popA), ([0b11010011#8, 0x5A#8], .outPort 0x5A#8), ([0b11011011#8, 0x5A#8], .inPort 0x5A#8)],
    reads x.1 = some x.2 := by decide

theorem test_decode_arithmetic : ∀ x ∈ [
      ([0b10000000#8], Instr.add (.reg .b)), ([0b10001110#8], .adc .m), ([0b10010010#8], .sub (.reg .d)),
      ([0b10011101#8], .sbb (.reg .l)), ([0b11000110#8, 0x5A#8], .adi 0x5A#8), ([0b11001110#8, 0x5A#8], .aci 0x5A#8),
      ([0b11010110#8, 0x5A#8], .sui 0x5A#8), ([0b11011110#8, 0x5A#8], .sbi 0x5A#8), ([0b00001001#8], .dad .bc),
      ([0b00110100#8], .inr .m), ([0b00110011#8], .inx .sp), ([0b00011101#8], .dcr (.reg .e)), ([0b00011011#8], .dcx .de),
      ([0b00100111#8], .daa)],
    reads x.1 = some x.2 := by decide

theorem test_decode_branching : ∀ x ∈ [
      ([0b11000011#8, 0x34#8, 0x12#8], Instr.jmp 0x1234#16), ([0b11011010#8, 0x34#8, 0x12#8], .jc 0x1234#16),
      ([0b11010010#8, 0x34#8, 0x12#8], .jnc 0x1234#16), ([0b11110010#8, 0x34#8, 0x12#8], .jp 0x1234#16),
      ([0b11111010#8, 0x34#8, 0x12#8], .jm 0x1234#16), ([0b11001010#8, 0x34#8, 0x12#8], .jz 0x1234#16),
      ([0b11000010#8, 0x34#8, 0x12#8], .jnz 0x1234#16), ([0b11101010#8, 0x34#8, 0x12#8], .jpe 0x1234#16),
      ([0b11100010#8, 0x34#8, 0x12#8], .jpo 0x1234#16), ([0b11001101#8, 0x34#8, 0x12#8], .call 0x1234#16),
      ([0b11011100#8, 0x34#8, 0x12#8], .cc 0x1234#16), ([0b11010100#8, 0x34#8, 0x12#8], .cnc 0x1234#16),
      ([0b11110100#8, 0x34#8, 0x12#8], .cp 0x1234#16), ([0b11111100#8, 0x34#8, 0x12#8], .cm 0x1234#16),
      ([0b11001100#8, 0x34#8, 0x12#8], .cz 0x1234#16), ([0b11000100#8, 0x34#8, 0x12#8], .cnz 0x1234#16),
      ([0b11101100#8, 0x34#8, 0x12#8], .cpe 0x1234#16), ([0b11100100#8, 0x34#8, 0x12#8], .cpo 0x1234#16),
      ([0b11001001#8], .ret), ([0b11011000#8], .rc), ([0b11010000#8], .rnc), ([0b11110000#8], .rp), ([0b11111000#8], .rm),
      ([0b11001000#8], .rz), ([0b11000000#8], .rnz), ([0b11101000#8], .rpe), ([0b11100000#8], .rpo),
      ([0b11101001#8], .pchl), ([0b11110111#8], .rst 6#3)],
    reads x.1 = some x.2 := by decide

theorem test_decode_logical : ∀ x ∈ [
      ([0b10100001#8], Instr.ana (.reg .c)), ([0b10101100#8], .xra (.reg .h)), ([0b10110110#8], .ora .m),
      ([0b10111111#8], .cmp (.reg .a)), ([0b11100110#8, 0x5A#8], .ani 0x5A#8), ([0b11101110#8, 0x5A#8], .xri 0x5A#8),
      ([0b11110110#8, 0x5A#8], .ori 0x5A#8), ([0b11111110#8, 0x5A#8], .cpi 0x5A#8), ([0b00000111#8], .rlc),
      ([0b00001111#8], .rrc), ([0b00010111#8], .ral), ([0b00011111#8], .rar), ([0b00101111#8], .cma),
      ([0b00111111#8], .cmc), ([0b00110111#8], .stc)],
    reads x.1 = some x.2 := by decide

theorem test_decode_control : ∀ x ∈ [
      ([0b00000000#8], Instr.nop), ([0b01110110#8], .hlt), ([0b11110011#8], .di), ([0b11111011#8], .ei),
      ([0b00100000#8], .rim), ([0b00110000#8], .sim)],
    reads x.1 = some x.2 := by decide

theorem test_decode_undefined : ∀ x ∈ [
      ([0b00001000#8], Instr.undefined08), ([0b00010000#8], .undefined10), ([0b00011000#8], .undefined18),
      ([0b00101000#8], .undefined28), ([0b00111000#8], .undefined38), ([0b11001011#8], .undefinedCB),
      ([0b11011001#8], .undefinedD9), ([0b11011101#8], .undefinedDD), ([0b11101101#8], .undefinedED),
      ([0b11111101#8], .undefinedFD)],
    reads x.1 = some x.2 := by decide

theorem test_decode_needs_all_bytes :
    reads [] = none ∧ reads [0x3E#8] = none ∧ reads [0xC3#8, 0x34#8] = none ∧ reads [0x00#8, 0x00#8] = none := by decide

/-- The numbering of the table: a later byte's bits count on from the first's. -/
theorem test_decode_table_word : decodeTableWord 24 0x2034C3 = some (.jmp 0x2034#16) ∧
    decodeTableWord 8 0x2034C3 = some (.jmp 0x0000#16) ∧ decodeTableWord 16 0x2034C3 = some (.jmp 0x0034#16) := by decide

/-! ### Assembler statements: the example lines of 95_test_vectors.md 1.1 -/

theorem test_assembly : assembly (.mviM 0x57#8) = some "MVI M, 57H" ∧ assembly (.movRM .b) = some "MOV B, M" ∧
    assembly (.outPort 0xF8#8) = some "OUT F8H" ∧ assembly (.lxi .hl 0x2034#16) = some "LXI H, 2034H" ∧
    assembly (.shld 0x2470#16) = some "SHLD 2470H" ∧ assembly .undefinedCB = none := by decide

/-! ### One step: the vectors of 95_test_vectors.md -/

/-- Puts bytes in memory from an address on. -/
def placeBytes (a : Word) (bytes : List Byte) (s : State) : State :=
  match bytes with
  | [] => s
  | v :: rest => placeBytes (a + 1) rest (s.loadByte a v)

/-- Schedules one record. -/
def presenting (r : EnvRecord) (s : State) : State := { s with env := { s.env with schedule := [r] } }

/-- The start of the vectors: PC = 2000H, SP = 2100H, the code at 2000H; the environment requests nothing, SID is 0 and port
8CH presents 3CH. -/
def start (code : List Byte) : State :=
  presenting { EnvRecord.quiet with sid := some false, ports := [(0x8C#8, 0x3C#8)] }
    (placeBytes 0x2000#16 code { State.reset with sp := 0x2100#16, pc := 0x2000#16 })

/-- Flags in the order of the vectors: S Z AC P CY. -/
def flagsOf (s z ac p cy : Nat) : Flags := { s := s == 1, z := z == 1, ac := ac == 1, p := p == 1, cy := cy == 1 }

/-- The state with these flags. -/
def withFlags (s z ac p cy : Nat) (x : State) : State := { x with flags := flagsOf s z ac p cy }

/-- The state with this control state. -/
def withCtl (c : Control) (x : State) : State := { x with ctl := c }

/-- A step answers a next state, and `p` is true of it. -/
def gives (s : State) (p : State → Bool) : Bool :=
  match step s with
  | .next t => p t
  | .fault _ => false
  | .refused _ => false

/-! #### Data transfer -/

theorem test_v1_mov_b_c :
    gives (start [0x41#8] |>.setReg .b 0x11#8 |>.setReg .c 0x22#8 |> withFlags 1 0 1 0 1)
    (fun t => t.reg .b == 0x22#8 && t.reg .c == 0x22#8 && t.pc == 0x2001#16 && t.flags == flagsOf 1 0 1 0 1) = true := by
      decide

theorem test_v2_mov_b_m :
    gives (start [0x46#8] |>.setReg .h 0x20#8 |>.setReg .l 0x50#8 |>.loadByte 0x2050#16 0x9A#8)
    (fun t => t.reg .b == 0x9A#8 && t.pc == 0x2001#16 && t.byteAt 0x2050#16 == 0x9A#8 && t.flags == flagsOf 0 0 0 0 0) =
      true := by decide

theorem test_v4_mov_m_h :
    gives (start [0x74#8] |>.setReg .h 0x20#8 |>.setReg .l 0x50#8)
    (fun t => t.reg .h == 0x20#8 && t.reg .l == 0x50#8 && t.byteAt 0x2050#16 == 0x20#8 && t.flags == flagsOf 0 0 0 0 0) =
      true := by decide

theorem test_v6_mvi_b_57h :
    gives (start [0x06#8, 0x57#8] |>.setReg .b 0x00#8)
    (fun t => t.reg .b == 0x57#8 && t.pc == 0x2002#16 && t.flags == flagsOf 0 0 0 0 0) = true := by decide

theorem test_v7_mvi_m_57h :
    gives (start [0x36#8, 0x57#8] |>.setReg .h 0x20#8 |>.setReg .l 0x50#8)
    (fun t => t.pc == 0x2002#16 && t.byteAt 0x2050#16 == 0x57#8 && t.flags == flagsOf 0 0 0 0 0) = true := by decide

theorem test_v8_lda_2034h :
    gives (start [0x3A#8, 0x34#8, 0x20#8] |>.loadByte 0x2034#16 0xC7#8)
    (fun t => t.reg .a == 0xC7#8 && t.pc == 0x2003#16 && t.flags == flagsOf 0 0 0 0 0) = true := by decide

theorem test_v9_ldax_b :
    gives (start [0x0A#8] |>.setReg .b 0x20#8 |>.setReg .c 0x50#8 |>.loadByte 0x2050#16 0x9F#8)
    (fun t => t.reg .a == 0x9F#8 && t.reg .b == 0x20#8 && t.reg .c == 0x50#8 && t.flags == flagsOf 0 0 0 0 0) = true := by
      decide

theorem test_v10_ldax_d :
    gives (start [0x1A#8] |>.setReg .d 0xFF#8 |>.setReg .e 0xFF#8 |>.loadByte 0xFFFF#16 0x01#8)
    (fun t => t.reg .a == 0x01#8 && t.flags == flagsOf 0 0 0 0 0) = true := by decide

theorem test_v11_lxi_h_2034h :
    gives (start [0x21#8, 0x34#8, 0x20#8])
    (fun t => t.reg .h == 0x20#8 && t.reg .l == 0x34#8 && t.pc == 0x2003#16 && t.flags == flagsOf 0 0 0 0 0) = true := by
      decide

theorem test_v12_lxi_sp_20f0h :
    gives (start [0x31#8, 0xF0#8, 0x20#8])
    (fun t => t.sp == 0x20F0#16 && t.flags == flagsOf 0 0 0 0 0) = true := by decide

theorem test_v13_lhld_2040h :
    gives (start [0x2A#8, 0x40#8, 0x20#8] |>.loadByte 0x2040#16 0x01#8 |>.loadByte 0x2041#16 0x02#8)
    (fun t => t.reg .h == 0x02#8 && t.reg .l == 0x01#8 && t.flags == flagsOf 0 0 0 0 0) = true := by decide

theorem test_v14_lhld_ffffh :
    gives (start [0x2A#8, 0xFF#8, 0xFF#8] |>.loadByte 0xFFFF#16 0xAA#8 |>.loadByte 0x0000#16 0xBB#8)
    (fun t => t.reg .h == 0xBB#8 && t.reg .l == 0xAA#8 && t.flags == flagsOf 0 0 0 0 0) = true := by decide

theorem test_v15_sta_4350h :
    gives (start [0x32#8, 0x50#8, 0x43#8] |>.setReg .a 0x9F#8)
    (fun t => t.reg .a == 0x9F#8 && t.byteAt 0x4350#16 == 0x9F#8 && t.flags == flagsOf 0 0 0 0 0) = true := by decide

theorem test_v16_stax_b :
    gives (start [0x02#8] |>.setReg .a 0x9F#8 |>.setReg .b 0x20#8 |>.setReg .c 0x50#8)
    (fun t => t.reg .a == 0x9F#8 && t.byteAt 0x2050#16 == 0x9F#8 && t.flags == flagsOf 0 0 0 0 0) = true := by decide

theorem test_v17_shld_2470h :
    gives (start [0x22#8, 0x70#8, 0x24#8] |>.setReg .h 0x01#8 |>.setReg .l 0xFF#8)
    (fun t => t.reg .h == 0x01#8 && t.reg .l == 0xFF#8 && t.byteAt 0x2470#16 == 0xFF#8 && t.byteAt 0x2471#16 == 0x01#8 &&
      t.flags == flagsOf 0 0 0 0 0) = true := by decide

theorem test_v18_shld_ffffh :
    gives (start [0x22#8, 0xFF#8, 0xFF#8] |>.setReg .h 0x12#8 |>.setReg .l 0x34#8)
    (fun t => t.byteAt 0xFFFF#16 == 0x34#8 && t.byteAt 0x0000#16 == 0x12#8 && t.flags == flagsOf 0 0 0 0 0) = true := by
      decide

theorem test_v19_xchg :
    gives (start [0xEB#8] |>.setReg .d 0x11#8 |>.setReg .e 0x22#8 |>.setReg .h 0x33#8 |>.setReg .l 0x44#8)
    (fun t => t.reg .d == 0x33#8 && t.reg .e == 0x44#8 && t.reg .h == 0x11#8 && t.reg .l == 0x22#8 && t.flags == flagsOf 0 0
      0 0 0) = true := by decide

theorem test_v20_sphl :
    gives (start [0xF9#8] |>.setReg .h 0x20#8 |>.setReg .l 0xF0#8)
    (fun t => t.sp == 0x20F0#16 && t.reg .h == 0x20#8 && t.reg .l == 0xF0#8 && t.flags == flagsOf 0 0 0 0 0) = true := by
      decide

theorem test_v21_xthl :
    gives (start [0xE3#8] |>.setReg .h 0x12#8 |>.setReg .l 0x34#8 |>.setPair .sp 0x20FE#16 |>.loadByte 0x20FE#16 0xCD#8
      |>.loadByte 0x20FF#16 0xAB#8)
    (fun t => t.reg .h == 0xAB#8 && t.reg .l == 0xCD#8 && t.sp == 0x20FE#16 && t.byteAt 0x20FE#16 == 0x34#8 && t.byteAt
      0x20FF#16 == 0x12#8 && t.flags == flagsOf 0 0 0 0 0) = true := by decide

theorem test_v22_xthl :
    gives (start [0xE3#8] |>.setReg .h 0x12#8 |>.setReg .l 0x34#8 |>.setPair .sp 0xFFFF#16 |>.loadByte 0xFFFF#16 0xCD#8
      |>.loadByte 0x0000#16 0xAB#8)
    (fun t => t.reg .h == 0xAB#8 && t.reg .l == 0xCD#8 && t.sp == 0xFFFF#16 && t.byteAt 0xFFFF#16 == 0x34#8 && t.byteAt
      0x0000#16 == 0x12#8 && t.flags == flagsOf 0 0 0 0 0) = true := by decide

theorem test_v23_push_b :
    gives (start [0xC5#8] |>.setReg .b 0x12#8 |>.setReg .c 0x34#8)
    (fun t => t.sp == 0x20FE#16 && t.byteAt 0x20FF#16 == 0x12#8 && t.byteAt 0x20FE#16 == 0x34#8 && t.flags == flagsOf 0 0 0
      0 0) = true := by decide

theorem test_v24_push_h :
    gives (start [0xE5#8] |>.setReg .h 0x12#8 |>.setReg .l 0x34#8 |>.setPair .sp 0x0001#16)
    (fun t => t.sp == 0xFFFF#16 && t.byteAt 0x0000#16 == 0x12#8 && t.byteAt 0xFFFF#16 == 0x34#8 && t.flags == flagsOf 0 0 0
      0 0) = true := by decide

theorem test_v25_pop_h :
    gives (start [0xE1#8] |>.setPair .sp 0x20FE#16 |>.loadByte 0x20FE#16 0x34#8 |>.loadByte 0x20FF#16 0x12#8)
    (fun t => t.reg .h == 0x12#8 && t.reg .l == 0x34#8 && t.sp == 0x2100#16 && t.flags == flagsOf 0 0 0 0 0) = true := by
      decide

theorem test_v26_pop_a :
    gives (start [0xF1#8] |>.setPair .sp 0x20FE#16 |>.loadByte 0x20FE#16 0xFF#8 |>.loadByte 0x20FF#16 0x12#8)
    (fun t => t.reg .a == 0x12#8 && t.sp == 0x2100#16 && t.flags == flagsOf 1 1 1 1 1) = true := by decide

theorem test_v27_pop_a :
    gives (start [0xF1#8] |>.setPair .sp 0x20FE#16 |>.loadByte 0x20FE#16 0x2A#8 |>.loadByte 0x20FF#16 0x00#8 |> withFlags 1
      1 1 1 1)
    (fun t => t.reg .a == 0x00#8 && t.sp == 0x2100#16 && t.flags == flagsOf 0 0 0 0 0) = true := by decide

theorem test_v28_out_f8h :
    gives (start [0xD3#8, 0xF8#8] |>.setReg .a 0x5A#8)
    (fun t => t.reg .a == 0x5A#8 && t.pc == 0x2002#16 && t.flags == flagsOf 0 0 0 0 0 && t.events == [.portWrite 0xF8#8
      0x5A#8]) = true := by decide

theorem test_v29_in_8ch :
    gives (start [0xDB#8, 0x8C#8] |>.setReg .a 0x00#8)
    (fun t => t.reg .a == 0x3C#8 && t.pc == 0x2002#16 && t.flags == flagsOf 0 0 0 0 0 && t.events == [.portRead 0x8C#8
      0x3C#8]) = true := by decide

/-! #### Arithmetic -/

theorem test_v41_add_b :
    gives (start [0x80#8] |>.setReg .a 0x2E#8 |>.setReg .b 0x6C#8)
    (fun t => t.reg .a == 0x9A#8 && t.flags == flagsOf 1 0 1 1 0) = true := by decide

theorem test_v47_add_m :
    gives (start [0x86#8] |>.setReg .a 0x0F#8 |>.setReg .h 0x20#8 |>.setReg .l 0x50#8 |>.loadByte 0x2050#16 0x01#8)
    (fun t => t.reg .a == 0x10#8 && t.flags == flagsOf 0 0 1 0 0) = true := by decide

theorem test_v48_adc_b :
    gives (start [0x88#8] |>.setReg .a 0x3D#8 |>.setReg .b 0x42#8 |> withFlags 0 0 0 0 1)
    (fun t => t.reg .a == 0x80#8 && t.flags == flagsOf 1 0 1 0 0) = true := by decide

theorem test_v51_adc_m :
    gives (start [0x8E#8] |>.setReg .a 0x7F#8 |>.setReg .h 0x20#8 |>.setReg .l 0x50#8 |>.loadByte 0x2050#16 0x7F#8)
    (fun t => t.reg .a == 0xFE#8 && t.flags == flagsOf 1 0 1 0 0) = true := by decide

theorem test_v57_sub_b :
    gives (start [0x90#8] |>.setReg .a 0x00#8 |>.setReg .b 0x01#8)
    (fun t => t.reg .a == 0xFF#8 && t.flags == flagsOf 1 0 0 1 1) = true := by decide

theorem test_v61_sub_m :
    gives (start [0x96#8] |>.setReg .a 0x05#8 |>.setReg .h 0x20#8 |>.setReg .l 0x50#8 |>.loadByte 0x2050#16 0x0A#8)
    (fun t => t.reg .a == 0xFB#8 && t.flags == flagsOf 1 0 0 0 1) = true := by decide

theorem test_v62_sbb_b :
    gives (start [0x98#8] |>.setReg .a 0x04#8 |>.setReg .b 0x02#8 |> withFlags 0 0 0 0 1)
    (fun t => t.reg .a == 0x01#8 && t.flags == flagsOf 0 0 1 0 0) = true := by decide

theorem test_v65_sbb_m :
    gives (start [0x9E#8] |>.setReg .a 0x50#8 |>.setReg .h 0x20#8 |>.setReg .l 0x50#8 |>.loadByte 0x2050#16 0x0F#8)
    (fun t => t.reg .a == 0x41#8 && t.flags == flagsOf 0 0 0 1 0) = true := by decide

theorem test_v53_adi_ffh :
    gives (start [0xC6#8, 0xFF#8] |>.setReg .a 0xFF#8)
    (fun t => t.reg .a == 0xFE#8 && t.flags == flagsOf 1 0 1 0 1) = true := by decide

theorem test_v54_aci_45h :
    gives (start [0xCE#8, 0x45#8] |>.setReg .a 0xBA#8 |> withFlags 0 0 0 0 1)
    (fun t => t.reg .a == 0x00#8 && t.flags == flagsOf 0 1 1 1 1) = true := by decide

theorem test_v67_sui_01h :
    gives (start [0xD6#8, 0x01#8] |>.setReg .a 0x00#8)
    (fun t => t.reg .a == 0xFF#8 && t.flags == flagsOf 1 0 0 1 1) = true := by decide

theorem test_v68_sbi_45h :
    gives (start [0xDE#8, 0x45#8] |>.setReg .a 0x46#8 |> withFlags 0 0 0 0 1)
    (fun t => t.reg .a == 0x00#8 && t.flags == flagsOf 0 1 1 1 0) = true := by decide

theorem test_v69_sbi_ffh :
    gives (start [0xDE#8, 0xFF#8] |>.setReg .a 0xFF#8 |> withFlags 0 0 0 0 1)
    (fun t => t.reg .a == 0xFF#8 && t.flags == flagsOf 1 0 0 1 1) = true := by decide

theorem test_v85_dad_h :
    gives (start [0x29#8] |>.setReg .h 0x12#8 |>.setReg .l 0x34#8 |> withFlags 1 0 1 0 1)
    (fun t => t.reg .h == 0x24#8 && t.reg .l == 0x68#8 && t.flags == flagsOf 1 0 1 0 0) = true := by decide

theorem test_v87_dad_b :
    gives (start [0x09#8] |>.setReg .h 0xFF#8 |>.setReg .l 0xFF#8 |>.setReg .b 0x00#8 |>.setReg .c 0x01#8)
    (fun t => t.reg .h == 0x00#8 && t.reg .l == 0x00#8 && t.reg .b == 0x00#8 && t.reg .c == 0x01#8 && t.flags == flagsOf 0 0
      0 0 1) = true := by decide

theorem test_v70_inr_b :
    gives (start [0x04#8] |>.setReg .b 0x0F#8 |> withFlags 0 0 0 0 1)
    (fun t => t.reg .b == 0x10#8 && t.flags == flagsOf 0 0 1 0 1) = true := by decide

theorem test_v73_inr_m :
    gives (start [0x34#8] |>.setReg .h 0x20#8 |>.setReg .l 0x50#8 |>.loadByte 0x2050#16 0xFF#8)
    (fun t => t.byteAt 0x2050#16 == 0x00#8 && t.flags == flagsOf 0 1 1 1 0) = true := by decide

theorem test_v79_inx_h :
    gives (start [0x23#8] |>.setReg .h 0x20#8 |>.setReg .l 0xFF#8 |> withFlags 1 0 1 0 1)
    (fun t => t.reg .h == 0x21#8 && t.reg .l == 0x00#8 && t.flags == flagsOf 1 0 1 0 1) = true := by decide

theorem test_v81_inx_sp :
    gives (start [0x33#8] |>.setPair .sp 0xFFFF#16)
    (fun t => t.sp == 0x0000#16 && t.flags == flagsOf 0 0 0 0 0) = true := by decide

theorem test_v74_dcr_b :
    gives (start [0x05#8] |>.setReg .b 0x10#8 |> withFlags 0 0 0 0 1)
    (fun t => t.reg .b == 0x0F#8 && t.flags == flagsOf 0 0 0 1 1) = true := by decide

theorem test_v78_dcr_m :
    gives (start [0x35#8] |>.setReg .h 0x20#8 |>.setReg .l 0x50#8 |>.loadByte 0x2050#16 0x00#8)
    (fun t => t.byteAt 0x2050#16 == 0xFF#8 && t.flags == flagsOf 1 0 0 1 0) = true := by decide

theorem test_v82_dcx_h :
    gives (start [0x2B#8] |>.setReg .h 0x21#8 |>.setReg .l 0x00#8 |> withFlags 1 0 1 0 1)
    (fun t => t.reg .h == 0x20#8 && t.reg .l == 0xFF#8 && t.flags == flagsOf 1 0 1 0 1) = true := by decide

theorem test_v84_dcx_b :
    gives (start [0x0B#8] |>.setReg .b 0x00#8 |>.setReg .c 0x01#8)
    (fun t => t.reg .b == 0x00#8 && t.reg .c == 0x00#8 && t.flags == flagsOf 0 0 0 0 0) = true := by decide

theorem test_v91_daa :
    gives (start [0x27#8] |>.setReg .a 0x9A#8)
    (fun t => t.reg .a == 0x00#8 && t.flags == flagsOf 0 1 1 1 1) = true := by decide

theorem test_v94_daa :
    gives (start [0x27#8] |>.setReg .a 0x00#8 |> withFlags 0 0 1 0 1)
    (fun t => t.reg .a == 0x66#8 && t.flags == flagsOf 0 0 0 1 1) = true := by decide

/-! #### Branching -/

theorem test_v161_jmp_2034h :
    gives (start [0xC3#8, 0x34#8, 0x20#8])
    (fun t => t.pc == 0x2034#16 && t.sp == 0x2100#16) = true := by decide

theorem test_v168_jc_2034h :
    gives (start [0xDA#8, 0x34#8, 0x20#8])
    (fun t => t.pc == 0x2003#16) = true := by decide

theorem test_v169_jc_2034h :
    gives (start [0xDA#8, 0x34#8, 0x20#8] |> withFlags 0 0 0 0 1)
    (fun t => t.pc == 0x2034#16) = true := by decide

theorem test_v166_jnc_2034h :
    gives (start [0xD2#8, 0x34#8, 0x20#8])
    (fun t => t.pc == 0x2034#16) = true := by decide

theorem test_v167_jnc_2034h :
    gives (start [0xD2#8, 0x34#8, 0x20#8] |> withFlags 0 0 0 0 1)
    (fun t => t.pc == 0x2003#16) = true := by decide

theorem test_v174_jp_2034h :
    gives (start [0xF2#8, 0x34#8, 0x20#8])
    (fun t => t.pc == 0x2034#16) = true := by decide

theorem test_v175_jp_2034h :
    gives (start [0xF2#8, 0x34#8, 0x20#8] |> withFlags 1 0 0 0 0)
    (fun t => t.pc == 0x2003#16) = true := by decide

theorem test_v176_jm_2034h :
    gives (start [0xFA#8, 0x34#8, 0x20#8])
    (fun t => t.pc == 0x2003#16) = true := by decide

theorem test_v177_jm_2034h :
    gives (start [0xFA#8, 0x34#8, 0x20#8] |> withFlags 1 0 0 0 0)
    (fun t => t.pc == 0x2034#16) = true := by decide

theorem test_v164_jz_2034h :
    gives (start [0xCA#8, 0x34#8, 0x20#8])
    (fun t => t.pc == 0x2003#16) = true := by decide

theorem test_v165_jz_2034h :
    gives (start [0xCA#8, 0x34#8, 0x20#8] |> withFlags 0 1 0 0 0)
    (fun t => t.pc == 0x2034#16) = true := by decide

theorem test_v162_jnz_2034h :
    gives (start [0xC2#8, 0x34#8, 0x20#8])
    (fun t => t.pc == 0x2034#16) = true := by decide

theorem test_v172_jpe_2034h :
    gives (start [0xEA#8, 0x34#8, 0x20#8])
    (fun t => t.pc == 0x2003#16) = true := by decide

theorem test_v173_jpe_2034h :
    gives (start [0xEA#8, 0x34#8, 0x20#8] |> withFlags 0 0 0 1 0)
    (fun t => t.pc == 0x2034#16) = true := by decide

theorem test_v170_jpo_2034h :
    gives (start [0xE2#8, 0x34#8, 0x20#8])
    (fun t => t.pc == 0x2034#16) = true := by decide

theorem test_v171_jpo_2034h :
    gives (start [0xE2#8, 0x34#8, 0x20#8] |> withFlags 0 0 0 1 0)
    (fun t => t.pc == 0x2003#16) = true := by decide

theorem test_v178_call_2034h :
    gives (start [0xCD#8, 0x34#8, 0x20#8])
    (fun t => t.pc == 0x2034#16 && t.sp == 0x20FE#16 && t.byteAt 0x20FF#16 == 0x20#8 && t.byteAt 0x20FE#16 == 0x03#8) = true
      := by decide

theorem test_v179_call_2034h :
    gives (start [0xCD#8, 0x34#8, 0x20#8] |>.setPair .sp 0x0000#16)
    (fun t => t.pc == 0x2034#16 && t.sp == 0xFFFE#16 && t.byteAt 0xFFFF#16 == 0x20#8 && t.byteAt 0xFFFE#16 == 0x03#8) = true
      := by decide

theorem test_v182_cnc_2034h :
    gives (start [0xD4#8, 0x34#8, 0x20#8])
    (fun t => t.pc == 0x2034#16 && t.sp == 0x20FE#16 && t.byteAt 0x20FF#16 == 0x20#8 && t.byteAt 0x20FE#16 == 0x03#8) = true
      := by decide

theorem test_v183_cm_2034h :
    gives (start [0xFC#8, 0x34#8, 0x20#8])
    (fun t => t.pc == 0x2003#16 && t.sp == 0x2100#16 && t.byteAt 0x20FF#16 == 0x00#8 && t.byteAt 0x20FE#16 == 0x00#8) = true
      := by decide

theorem test_v180_cz_2034h :
    gives (start [0xCC#8, 0x34#8, 0x20#8] |> withFlags 0 1 0 0 0)
    (fun t => t.pc == 0x2034#16 && t.sp == 0x20FE#16 && t.byteAt 0x20FF#16 == 0x20#8 && t.byteAt 0x20FE#16 == 0x03#8) = true
      := by decide

theorem test_v181_cz_2034h :
    gives (start [0xCC#8, 0x34#8, 0x20#8])
    (fun t => t.pc == 0x2003#16 && t.sp == 0x2100#16 && t.byteAt 0x20FF#16 == 0x00#8 && t.byteAt 0x20FE#16 == 0x00#8) = true
      := by decide

theorem test_v184_cpe_2034h :
    gives (start [0xEC#8, 0x34#8, 0x20#8] |> withFlags 0 0 0 1 0)
    (fun t => t.pc == 0x2034#16 && t.sp == 0x20FE#16 && t.byteAt 0x20FF#16 == 0x20#8 && t.byteAt 0x20FE#16 == 0x03#8) = true
      := by decide

theorem test_v185_ret :
    gives (start [0xC9#8] |>.setPair .sp 0x20FE#16 |>.loadByte 0x20FE#16 0x03#8 |>.loadByte 0x20FF#16 0x20#8)
    (fun t => t.pc == 0x2003#16 && t.sp == 0x2100#16) = true := by decide

theorem test_v186_ret :
    gives (start [0xC9#8] |>.setPair .sp 0xFFFF#16 |>.loadByte 0xFFFF#16 0x34#8 |>.loadByte 0x0000#16 0x12#8)
    (fun t => t.pc == 0x1234#16 && t.sp == 0x0001#16) = true := by decide

theorem test_v189_rnc :
    gives (start [0xD0#8] |>.setPair .sp 0x20FE#16 |>.loadByte 0x20FE#16 0x03#8 |>.loadByte 0x20FF#16 0x20#8 |> withFlags 0
      0 0 0 1)
    (fun t => t.pc == 0x2001#16 && t.sp == 0x20FE#16) = true := by decide

theorem test_v190_rp :
    gives (start [0xF0#8] |>.setPair .sp 0x20FE#16 |>.loadByte 0x20FE#16 0x03#8 |>.loadByte 0x20FF#16 0x20#8)
    (fun t => t.pc == 0x2003#16 && t.sp == 0x2100#16) = true := by decide

theorem test_v187_rz :
    gives (start [0xC8#8] |>.setPair .sp 0x20FE#16 |>.loadByte 0x20FE#16 0x03#8 |>.loadByte 0x20FF#16 0x20#8 |> withFlags 0
      1 0 0 0)
    (fun t => t.pc == 0x2003#16 && t.sp == 0x2100#16) = true := by decide

theorem test_v188_rz :
    gives (start [0xC8#8] |>.setPair .sp 0x20FE#16 |>.loadByte 0x20FE#16 0x03#8 |>.loadByte 0x20FF#16 0x20#8)
    (fun t => t.pc == 0x2001#16 && t.sp == 0x20FE#16) = true := by decide

theorem test_v191_rpo :
    gives (start [0xE0#8] |>.setPair .sp 0x20FE#16 |>.loadByte 0x20FE#16 0x03#8 |>.loadByte 0x20FF#16 0x20#8)
    (fun t => t.pc == 0x2003#16 && t.sp == 0x2100#16) = true := by decide

theorem test_v192_pchl :
    gives (start [0xE9#8] |>.setReg .h 0x12#8 |>.setReg .l 0x34#8)
    (fun t => t.pc == 0x1234#16 && t.reg .h == 0x12#8 && t.reg .l == 0x34#8) = true := by decide

theorem test_v193_rst_0 :
    gives (start [0xC7#8])
    (fun t => t.pc == 0x0000#16 && t.sp == 0x20FE#16 && t.byteAt 0x20FF#16 == 0x20#8 && t.byteAt 0x20FE#16 == 0x01#8) = true
      := by decide

theorem test_v198_rst_5 :
    gives (start [0xEF#8])
    (fun t => t.pc == 0x0028#16 && t.sp == 0x20FE#16 && t.byteAt 0x20FF#16 == 0x20#8 && t.byteAt 0x20FE#16 == 0x01#8) = true
      := by decide

theorem test_t2_cc :
    gives (start [0xDC#8, 0x34#8, 0x20#8] |> withFlags 0 0 0 0 1)
    (fun t => t.pc == 0x2034#16 && t.sp == 0x20FE#16 && t.byteAt 0x20FF#16 == 0x20#8 && t.byteAt 0x20FE#16 == 0x03#8) = true
      := by decide

theorem test_t2_cnz :
    gives (start [0xC4#8, 0x34#8, 0x20#8])
    (fun t => t.pc == 0x2034#16 && t.sp == 0x20FE#16 && t.byteAt 0x20FF#16 == 0x20#8 && t.byteAt 0x20FE#16 == 0x03#8) = true
      := by decide

theorem test_t2_cp :
    gives (start [0xF4#8, 0x34#8, 0x20#8])
    (fun t => t.pc == 0x2034#16 && t.sp == 0x20FE#16 && t.byteAt 0x20FF#16 == 0x20#8 && t.byteAt 0x20FE#16 == 0x03#8) = true
      := by decide

theorem test_t2_cpo :
    gives (start [0xE4#8, 0x34#8, 0x20#8] |> withFlags 0 0 0 1 0)
    (fun t => t.pc == 0x2003#16 && t.sp == 0x2100#16 && t.byteAt 0x20FF#16 == 0x00#8 && t.byteAt 0x20FE#16 == 0x00#8) = true
      := by decide

theorem test_t3_rc :
    gives (start [0xD8#8] |>.setPair .sp 0x20FE#16 |>.loadByte 0x20FE#16 0x03#8 |>.loadByte 0x20FF#16 0x20#8 |> withFlags 0
      0 0 0 1)
    (fun t => t.pc == 0x2003#16 && t.sp == 0x2100#16) = true := by decide

theorem test_t3_rm :
    gives (start [0xF8#8] |>.setPair .sp 0x20FE#16 |>.loadByte 0x20FE#16 0x03#8 |>.loadByte 0x20FF#16 0x20#8 |> withFlags 1
      0 0 0 0)
    (fun t => t.pc == 0x2003#16 && t.sp == 0x2100#16) = true := by decide

theorem test_t3_rnz :
    gives (start [0xC0#8] |>.setPair .sp 0x20FE#16 |>.loadByte 0x20FE#16 0x03#8 |>.loadByte 0x20FF#16 0x20#8 |> withFlags 0
      1 0 0 0)
    (fun t => t.pc == 0x2001#16 && t.sp == 0x20FE#16) = true := by decide

theorem test_t3_rpe :
    gives (start [0xE8#8] |>.setPair .sp 0x20FE#16 |>.loadByte 0x20FE#16 0x03#8 |>.loadByte 0x20FF#16 0x20#8 |> withFlags 0
      0 0 1 0)
    (fun t => t.pc == 0x2003#16 && t.sp == 0x2100#16) = true := by decide

/-! #### Logical -/

theorem test_v120_ana_b :
    gives (start [0xA0#8] |>.setReg .a 0xFC#8 |>.setReg .b 0x0F#8 |> withFlags 0 0 0 0 1)
    (fun t => t.reg .a == 0x0C#8 && t.flags == flagsOf 0 0 1 1 0) = true := by decide

theorem test_v122_ana_m :
    gives (start [0xA6#8] |>.setReg .a 0xFF#8 |>.setReg .h 0x20#8 |>.setReg .l 0x50#8 |>.loadByte 0x2050#16 0x80#8)
    (fun t => t.reg .a == 0x80#8 && t.flags == flagsOf 1 0 1 0 0) = true := by decide

theorem test_v125_xra_b :
    gives (start [0xA8#8] |>.setReg .a 0x5C#8 |>.setReg .b 0x78#8 |> withFlags 0 0 1 0 1)
    (fun t => t.reg .a == 0x24#8 && t.flags == flagsOf 0 0 0 1 0) = true := by decide

theorem test_v127_xra_m :
    gives (start [0xAE#8] |>.setReg .a 0x0F#8 |>.setReg .h 0x20#8 |>.setReg .l 0x50#8 |>.loadByte 0x2050#16 0xF0#8)
    (fun t => t.reg .a == 0xFF#8 && t.flags == flagsOf 1 0 0 1 0) = true := by decide

theorem test_v130_ora_b :
    gives (start [0xB0#8] |>.setReg .a 0x33#8 |>.setReg .b 0x0F#8 |> withFlags 0 0 1 0 1)
    (fun t => t.reg .a == 0x3F#8 && t.flags == flagsOf 0 0 0 1 0) = true := by decide

theorem test_v132_ora_m :
    gives (start [0xB6#8] |>.setReg .a 0x80#8 |>.setReg .h 0x20#8 |>.setReg .l 0x50#8 |>.loadByte 0x2050#16 0x01#8)
    (fun t => t.reg .a == 0x81#8 && t.flags == flagsOf 1 0 0 1 0) = true := by decide

theorem test_v112_cmp_b :
    gives (start [0xB8#8] |>.setReg .a 0x02#8 |>.setReg .b 0x05#8)
    (fun t => t.reg .a == 0x02#8 && t.flags == flagsOf 1 0 0 0 1) = true := by decide

theorem test_v116_cmp_m :
    gives (start [0xBE#8] |>.setReg .a 0x00#8 |>.setReg .h 0x20#8 |>.setReg .l 0x50#8 |>.loadByte 0x2050#16 0xFF#8)
    (fun t => t.reg .a == 0x00#8 && t.flags == flagsOf 0 0 0 0 1) = true := by decide

theorem test_v123_ani_86h :
    gives (start [0xE6#8, 0x86#8] |>.setReg .a 0xA5#8 |> withFlags 0 0 0 0 1)
    (fun t => t.reg .a == 0x84#8 && t.flags == flagsOf 1 0 1 1 0) = true := by decide

theorem test_v128_xri_86h :
    gives (start [0xEE#8, 0x86#8] |>.setReg .a 0x3B#8 |> withFlags 0 0 0 0 1)
    (fun t => t.reg .a == 0xBD#8 && t.flags == flagsOf 1 0 0 1 0) = true := by decide

theorem test_v133_ori_86h :
    gives (start [0xF6#8, 0x86#8] |>.setReg .a 0x01#8 |> withFlags 0 0 0 0 1)
    (fun t => t.reg .a == 0x87#8 && t.flags == flagsOf 1 0 0 1 0) = true := by decide

theorem test_v117_cpi_89h :
    gives (start [0xFE#8, 0x89#8] |>.setReg .a 0x89#8)
    (fun t => t.reg .a == 0x89#8 && t.flags == flagsOf 0 1 1 1 0) = true := by decide

theorem test_v118_cpi_89h :
    gives (start [0xFE#8, 0x89#8] |>.setReg .a 0x88#8)
    (fun t => t.reg .a == 0x88#8 && t.flags == flagsOf 1 0 0 1 1) = true := by decide

theorem test_v135_rlc :
    gives (start [0x07#8] |>.setReg .a 0xF2#8 |> withFlags 1 1 1 1 0)
    (fun t => t.reg .a == 0xE5#8 && t.flags == flagsOf 1 1 1 1 1) = true := by decide

theorem test_v136_rlc :
    gives (start [0x07#8] |>.setReg .a 0x00#8 |> withFlags 0 0 0 0 1)
    (fun t => t.reg .a == 0x00#8 && t.flags == flagsOf 0 0 0 0 0) = true := by decide

theorem test_v138_rrc :
    gives (start [0x0F#8] |>.setReg .a 0xF2#8 |> withFlags 1 1 1 1 1)
    (fun t => t.reg .a == 0x79#8 && t.flags == flagsOf 1 1 1 1 0) = true := by decide

theorem test_v139_rrc :
    gives (start [0x0F#8] |>.setReg .a 0x01#8)
    (fun t => t.reg .a == 0x80#8 && t.flags == flagsOf 0 0 0 0 1) = true := by decide

theorem test_v140_ral :
    gives (start [0x17#8] |>.setReg .a 0xB5#8 |> withFlags 1 1 1 1 0)
    (fun t => t.reg .a == 0x6A#8 && t.flags == flagsOf 1 1 1 1 1) = true := by decide

theorem test_v141_ral :
    gives (start [0x17#8] |>.setReg .a 0x00#8 |> withFlags 0 0 0 0 1)
    (fun t => t.reg .a == 0x01#8 && t.flags == flagsOf 0 0 0 0 0) = true := by decide

theorem test_v143_rar :
    gives (start [0x1F#8] |>.setReg .a 0x6A#8 |> withFlags 1 1 1 1 1)
    (fun t => t.reg .a == 0xB5#8 && t.flags == flagsOf 1 1 1 1 0) = true := by decide

theorem test_v144_rar :
    gives (start [0x1F#8] |>.setReg .a 0x01#8)
    (fun t => t.reg .a == 0x00#8 && t.flags == flagsOf 0 0 0 0 1) = true := by decide

theorem test_v145_cma :
    gives (start [0x2F#8] |>.setReg .a 0x51#8 |> withFlags 0 1 0 1 0)
    (fun t => t.reg .a == 0xAE#8 && t.flags == flagsOf 0 1 0 1 0) = true := by decide

theorem test_v147_cmc :
    gives (start [0x3F#8] |> withFlags 1 1 1 1 1)
    (fun t => t.flags == flagsOf 1 1 1 1 0) = true := by decide

theorem test_v148_cmc :
    gives (start [0x3F#8])
    (fun t => t.flags == flagsOf 0 0 0 0 1) = true := by decide

theorem test_v149_stc :
    gives (start [0x37#8] |> withFlags 1 1 1 1 0)
    (fun t => t.flags == flagsOf 1 1 1 1 1) = true := by decide

/-! #### Control -/

theorem test_v211_nop :
    gives (start [0x00#8])
    (fun t => t.reg .a == 0x00#8 && t.pc == 0x2001#16 && !t.ctl.ie && t.ctl.m75 && t.ctl.m65 && t.ctl.m55 && !t.ctl.i75 &&
      !t.ctl.sod && !t.ctl.halted && !t.ctl.eiShadow) = true := by decide

theorem test_v212_hlt :
    gives (start [0x76#8])
    (fun t => t.reg .a == 0x00#8 && t.pc == 0x2001#16 && !t.ctl.ie && t.ctl.m75 && t.ctl.m65 && t.ctl.m55 && !t.ctl.i75 &&
      !t.ctl.sod && t.ctl.halted && !t.ctl.eiShadow) = true := by decide

theorem test_v213_di :
    gives (start [0xF3#8] |>
      withCtl { State.reset.ctl with ie := true })
    (fun t => t.reg .a == 0x00#8 && t.pc == 0x2001#16 && !t.ctl.ie && t.ctl.m75 && t.ctl.m65 && t.ctl.m55 && !t.ctl.i75 &&
      !t.ctl.sod && !t.ctl.halted && !t.ctl.eiShadow) = true := by decide

theorem test_v214_ei :
    gives (start [0xFB#8])
    (fun t => t.reg .a == 0x00#8 && t.pc == 0x2001#16 && t.ctl.ie && t.ctl.m75 && t.ctl.m65 && t.ctl.m55 && !t.ctl.i75 &&
      !t.ctl.sod && !t.ctl.halted && t.ctl.eiShadow) = true := by decide

theorem test_v217_sim :
    gives (start [0x30#8] |>.setReg .a 0x10#8 |>
      withCtl { State.reset.ctl with i75 := true, m75 := false, m65 := false, m55 := false })
    (fun t => t.reg .a == 0x10#8 && t.pc == 0x2001#16 && !t.ctl.ie && !t.ctl.m75 && !t.ctl.m65 && !t.ctl.m55 && !t.ctl.i75
      && !t.ctl.sod && !t.ctl.halted && !t.ctl.eiShadow) = true := by decide

theorem test_v219_sim :
    gives (start [0x30#8] |>.setReg .a 0xC0#8)
    (fun t => t.reg .a == 0xC0#8 && t.pc == 0x2001#16 && !t.ctl.ie && t.ctl.m75 && t.ctl.m65 && t.ctl.m55 && !t.ctl.i75 &&
      t.ctl.sod && !t.ctl.halted && !t.ctl.eiShadow) = true := by decide

/-- V30: the spare bits of the byte PUSH A stores are free, so the vector is met for each of their eight values. -/
theorem test_v30_push_a_bytes : ∀ u : Fin 8,
    let f := (flagsOf 1 0 1 0 1).toByte (BitVec.ofFin u)
    let t := ({ start [] with flags := flagsOf 1 0 1 0 1 } : State).push16 (wordOf 0x9A#8 f)
    t.sp = 0x20FE#16 ∧ t.byteAt 0x20FF#16 = 0x9A#8 ∧ t.byteAt 0x20FE#16 = f ∧ f &&& 0xD5#8 = 0x91#8 := by decide

theorem test_v30_push_a : ∃ u, exec .pushA (withFlags 1 0 1 0 1 ((start []).setReg .a 0x9A#8)) =
    .next ((withFlags 1 0 1 0 1 ((start []).setReg .a 0x9A#8)).push16 (wordOf 0x9A#8 ((flagsOf 1 0 1 0 1).toByte u))) :=
  ⟨_, rfl⟩

/-- A masked RST 7.5 latch shows (V224); the first RIM after a TRAP shows the saved IE and disarms (V225). -/
theorem test_v224_v225_rim :
    gives (start [0x20#8] |> withCtl { State.reset.ctl with ie := true, m65 := false, i75 := true })
      (fun t => t.reg .a == 0x4D#8 && t.pc == 0x2001#16 && t.ctl.i75 && t.ctl.ie) = true ∧
    gives (start [0x20#8] |> withCtl { State.reset.ctl with trapRimArmed := true, trapIeSaved := true })
      (fun t => t.reg .a == 0x0F#8 && !t.ctl.ie && !t.ctl.trapRimArmed) = true := by decide

/-- V226 shows the levels of RST 6.5 and RST 5.5 and SID = 1 at RIM itself; as a step the pending RST 6.5 comes first (log 28). -/
theorem test_v226_rim : (match exec .rim
      { start [] with
        ctl := { State.reset.ctl with ie := true, m75 := false, m65 := false, m55 := false }
        env := { (start []).env with
          pins := { EnvRecord.ofIrq ⟨false, false, false, true, true, false⟩ with sid := some true } } } with
    | .next t => t.reg .a == 0xB8#8
    | .fault _ => false
    | .refused _ => false) = true := by decide

/-! #### Fetch across FFFFH, and the unassigned bytes -/

theorem test_v231_fetch_wraps : gives { placeBytes 0xFFFF#16 [0x3E#8, 0x55#8] (start []) with pc := 0xFFFF#16 }
    (fun t => t.reg .a == 0x55#8 && t.pc == 0x0001#16) = true := by decide

theorem test_v234_untaken_consumes_three : gives { placeBytes 0xFFFE#16 [0xC2#8, 0x34#8, 0x12#8] (start [] |> withFlags 0 1 0 0 0)
    with pc := 0xFFFE#16 } (fun t => t.pc == 0x0001#16) = true := by decide

theorem test_v235_v236_undefined_bytes : ∀ op ∈
    [0x08#8, 0x10#8, 0x18#8, 0x28#8, 0x38#8, 0xCB#8, 0xD9#8, 0xDD#8, 0xED#8, 0xFD#8],
    (match step (start [op]) with
    | .next _ => false
    | .fault f => f == .undefinedOpcode op 0x2000#16
    | .refused _ => false) = true := by decide

/-! #### Interrupts: scenarios I1 to I17, one step each -/

/-- A TRAP edge with its level; RST 7.5's edge; the levels of RST 6.5, RST 5.5 and INTR. -/
def irq (trap r75 r65 r55 intr : Nat) : EnvRecord :=
  EnvRecord.ofIrq ⟨trap == 1, trap == 1, r75 == 1, r65 == 1, r55 == 1, intr == 1⟩

/-- Enabled, no source masked. -/
def enabled : Control := { State.reset.ctl with ie := true, m75 := false, m65 := false, m55 := false }

theorem test_i1_trap_needs_no_enable : gives (start [0x00#8] |> presenting (irq 1 0 0 0 0))
    (fun t => t.byteAt 0x20FF#16 == 0x20#8 && t.byteAt 0x20FE#16 == 0x00#8 && t.sp == 0x20FE#16 && t.pc == 0x0024#16 &&
      !t.ctl.ie && !t.ctl.trapFF && !t.ctl.trapIeSaved && t.ctl.trapRimArmed) = true := by decide

theorem test_i3_rst65 : gives (start [0x00#8] |> withCtl enabled |> presenting (irq 0 0 1 0 0))
    (fun t => t.pc == 0x0034#16 && !t.ctl.ie && !t.ctl.m65 && t.byteAt 0x20FF#16 == 0x20#8) = true := by decide

theorem test_i4_masked_level : gives
    (start [0x00#8] |> withCtl { enabled with m55 := true } |> presenting (irq 0 0 0 1 0))
    (fun t => t.pc == 0x2001#16) = true := by
  decide

theorem test_i5_disabled_level : gives
    (start [0x00#8] |> withCtl { enabled with ie := false } |> presenting (irq 0 0 0 1 0))
    (fun t => t.pc == 0x2001#16) = true := by
  decide

theorem test_i6_rst75_before_levels : gives (start [0x00#8] |> withCtl enabled |> presenting (irq 0 1 1 1 1))
    (fun t => t.pc == 0x003C#16 && !t.ctl.i75 && !t.ctl.ie) = true := by decide

theorem test_i7_trap_first : gives (start [0x00#8] |> withCtl enabled |> presenting (irq 1 1 1 1 1))
    (fun t => t.pc == 0x0024#16 && !t.ctl.ie && t.ctl.trapIeSaved && t.ctl.i75) = true := by decide

theorem test_i8_intr_rst2 : gives
    (start [0x00#8] |> withCtl enabled |> presenting { irq 0 0 0 0 1 with inta := some ⟨0xD7#8, 0x00#8, 0x00#8⟩ })
    (fun t => t.pc == 0x0010#16 && t.sp == 0x20FE#16 && t.byteAt 0x20FF#16 == 0x20#8 && t.byteAt 0x20FE#16 == 0x00#8 &&
      !t.ctl.ie) = true := by decide

theorem test_i9_intr_call : gives
    (start [0x00#8] |> withCtl enabled |> presenting { irq 0 0 0 0 1 with inta := some ⟨0xCD#8, 0x00#8, 0x30#8⟩ })
    (fun t => t.pc == 0x3000#16 && t.sp == 0x20FE#16 && t.byteAt 0x20FF#16 == 0x20#8 && t.byteAt 0x20FE#16 == 0x00#8) = true := by
  decide

theorem test_i10_intr_nop_refused :
    (match step (start [] |> withCtl enabled |> presenting { irq 0 0 0 0 1 with inta := some ⟨0x00#8, 0x00#8, 0x00#8⟩ }) with
    | .next _ => false
    | .fault _ => false
    | .refused r => r == .intaInstruction ⟨0x00#8, 0x00#8, 0x00#8⟩) = true := by decide

theorem test_i11_shadow_holds_off : gives
    (start [0x00#8] |> withCtl { enabled with eiShadow := true } |> presenting (irq 0 0 1 0 0))
    (fun t => t.pc == 0x2001#16 && t.ctl.ie && !t.ctl.eiShadow) = true := by decide

theorem test_i14_halted_masked : gives
    (start [] |> withCtl { enabled with m55 := true, halted := true } |> presenting (irq 0 0 0 1 0))
    (fun t => t.pc == 0x2000#16 && t.ctl.halted) = true := by decide

theorem test_i15_trap_wakes : gives (start [] |> withCtl { State.reset.ctl with halted := true } |> presenting (irq 1 0 0 0 0))
    (fun t => t.pc == 0x0024#16 && !t.ctl.halted) = true := by decide

theorem test_i16_trap_in_shadow : gives (start [] |> withCtl { enabled with eiShadow := true } |> presenting (irq 1 0 0 0 0))
    (fun t => t.pc == 0x0024#16 && !t.ctl.ie && t.ctl.trapIeSaved && !t.ctl.eiShadow) = true := by decide

theorem test_i17_trap_edge_without_level : gives
    (start [0x00#8] |> presenting (EnvRecord.ofIrq ⟨false, true, false, false, false, false⟩))
    (fun t => t.pc == 0x2001#16 && t.ctl.trapFF) = true := by decide

/-- A reset event (70_reset_and_hazards.md R300) wins over a TRAP at the same boundary (log 15). -/
theorem test_reset_event : gives (start [0x00#8] |> withCtl enabled |> presenting { irq 1 1 1 1 1 with reset := true })
    (fun t => t.pc == 0x0000#16 && t.ctl == State.reset.ctl) = true := by decide

/-! #### How a run ends (70_reset_and_hazards.md R305) -/

/-- The state a run ends in, if it ends halted. -/
def haltsAt (fuel : Nat) (s : State) (p : State → Bool) : Bool :=
  match runToEnd fuel s with
  | .halted t => p t
  | .fault _ => false
  | .refused _ => false
  | .outOfFuel _ => false

/-- EI; HLT with an unmasked RST 7.5 edge latched in the shadow: the halt is not final, the next step enters at 003CH, and the
run is final at the HLT there. -/
theorem test_eligible_latch_is_not_final :
    let s := start [] |> withCtl { enabled with halted := true, i75 := true } |>.loadByte 0x003C#16 0x76#8
    isFinal s = false ∧ gives s (fun t => t.pc == 0x003C#16) = true ∧ haltsAt 1 s (fun _ => true) = false ∧
    haltsAt 2 s (fun t => t.pc == 0x003D#16 && t.byteAt 0x20FF#16 == 0x20#8) = true := by decide

/-- A level that comes at the third boundary keeps a halt from being final; masked, or with IE = 0, it does not. -/
theorem test_schedule_decides_final :
    let s := start [] |> withCtl { enabled with halted := true }
    let t := { s with env := { s.env with schedule := [.quiet, .quiet, irq 0 0 0 1 0] } }
    isFinal t = false ∧ isFinal (withCtl { t.ctl with m55 := true } t) = true ∧
    isFinal (withCtl { t.ctl with ie := false } t) = true ∧ isFinal s = true := by decide

/-- DI; HLT with an RST 7.5 edge latched: final, PC after the HLT. -/
theorem test_di_hlt_ends_run : haltsAt 2 (start [0xF3#8, 0x76#8] |> withCtl { enabled with eiShadow := true, i75 := true })
    (fun t => t.pc == 0x2002#16 && t.ctl.i75 && !t.ctl.ie) = true := by decide

/-! #### Placing the next instruction -/

theorem test_placed_word_runs : gives (State.reset.withFetchWord 24 0x2034C3) (fun t => t.pc == 0x2034#16) = true := by decide

/-- It runs though the machine is halted, a latched RST 7.5 is eligible and PC points at a device. -/
theorem test_placed_word_runs_anywhere : gives
    (State.withFetchWord
      { State.reset with
        ctl := { enabled with halted := true, i75 := true }
        env := { State.reset.env with memMap := [⟨0x0000#16, 65536, .device⟩] } } 16 0x573E)
    (fun t => t.reg .a == 0x57#8 && t.pc == 0x0002#16 && t.ctl.i75) = true := by decide

/-! #### The order of R55, seen by a device -/

/-- The events an instruction adds. -/
def adds (i : Instr) (s : State) : List Event :=
  match exec i s with
  | .next t => t.events.drop s.events.length
  | .fault _ => []
  | .refused _ => []

/-- Every address a device. -/
def deviceEverywhere : State :=
  let s := { start [] with sp := 0x0001#16, pc := 0x1234#16 }.setReg .h 0xAB#8 |>.setReg .l 0xCD#8
  { s with env := { s.env with memMap := [⟨0x0000#16, 65536, .device⟩] } }

theorem test_r55_writes_in_order :
    adds (.shld 0xFFFF#16) deviceEverywhere = [.busWrite 0xFFFF#16 0xCD#8, .busWrite 0x0000#16 0xAB#8] ∧
    adds (.pushRp .hl) deviceEverywhere = [.busWrite 0x0000#16 0xAB#8, .busWrite 0xFFFF#16 0xCD#8] ∧
    adds (.rst 7#3) deviceEverywhere = [.busWrite 0x0000#16 0x12#8, .busWrite 0xFFFF#16 0x34#8] := by decide

/-- XTHL reads upward and writes downward; INR M reads, then writes. The bytes read are the device's. -/
theorem test_r55_reads_in_order : (∃ v w, adds .xthl deviceEverywhere =
      [.busRead 0x0001#16 v, .busRead 0x0002#16 w, .busWrite 0x0002#16 0xAB#8, .busWrite 0x0001#16 0xCD#8]) ∧
    (∃ v, adds (.inr .m) deviceEverywhere = [.busRead 0xABCD#16 v, .busWrite 0xABCD#16 (v + 1)]) ∧
    ∃ v w, adds .ret deviceEverywhere = [.busRead 0x0001#16 v, .busRead 0x0002#16 w] :=
  ⟨⟨_, _, rfl⟩, ⟨_, rfl⟩, ⟨_, _, rfl⟩⟩

/-! ### Witnesses: the hypotheses of each statement that has some, met on a concrete state -/

/-- What `gives` says, as the statements say it. -/
theorem exists_of_gives {s : State} {p : State → Bool} (h : gives s p = true) : ∃ t, step s = .next t ∧ p t = true := by
  unfold gives at h
  split at h
  · exact ⟨_, ‹_›, h⟩
  · cases h
  · cases h

/-- The premises of a step at a state: no reset, this source pending. -/
def boundaryIs (s : State) (x : Option Source) : Bool :=
  !s.presentInputs.env.pins.reset && decide (s.presentInputs.pending = x)

theorem witness_DecodeInvertsEncode : Instr.wellFormed (.stax .de) = true ∧ Instr.wellFormed (.lxi .sp 0xFFFF#16) = true := by
  decide

theorem witness_EncodeInvertsDecode : decode [0xC3#8, 0xFF#8, 0x00#8, 0x76#8] = .ok (.jmp 0x00FF#16, [0x76#8]) := rfl

/-- MVI B, 57H at 2000H. -/
theorem witness_StepRunsDecodedInstruction :
    let s := start [0x06#8, 0x57#8]
    Instr.wellFormed (.mviR .b 0x57#8) = true ∧ RunsInstruction s ∧
    ∀ (k : Nat) (h : k < (encode (.mviR .b 0x57#8)).length),
      s.holdsMemory (s.pc + BitVec.ofNat 16 k) = true ∧
      s.byteAt (s.pc + BitVec.ofNat 16 k) = (encode (.mviR .b 0x57#8))[k] := by
  refine ⟨by decide, ⟨by decide, by decide, by decide⟩, by decide⟩

/-- The unassigned byte DDH, three bytes from the end of memory. -/
theorem witness_StepRunsDecodedInstruction_fault :
    let s : State := { placeBytes 0xFFFF#16 [0xDD#8] (start []) with pc := 0xFFFF#16 }
    RunsInstruction s ∧ s.holdsMemory s.pc = true ∧ encode .undefinedDD = [s.byteAt s.pc] := by
  refine ⟨⟨by decide, by decide, by decide⟩, by decide, by decide⟩

theorem witness_HaltWaits :
    let s := start [] |> withCtl { State.reset.ctl with halted := true } |> presenting (irq 0 1 1 1 1)
    s.ctl.halted = true ∧ s.presentInputs.env.pins.reset = false ∧ s.presentInputs.pending = none := by decide

/-- Each of the four internal sources, and the stack pointer at its lowest value. -/
theorem witness_InternalInterruptEntry : ∀ x ∈
    [(Internal.trap, irq 1 1 1 1 1), (.rst75, irq 0 1 1 1 1), (.rst65, irq 0 0 1 1 1), (.rst55, irq 0 0 0 1 1)],
    boundaryIs ({ start [] with sp := 0x0000#16 } |> withCtl enabled |> presenting x.2) (some (.internal x.1)) = true := by decide

/-- RST 0, RST 7, CALL and NOP inserted. -/
theorem witness_IntrEntry : ∀ b ∈ [0xC7#8, 0xFF#8, 0xCD#8, 0x00#8],
    let s := start [] |> withCtl enabled |> presenting { irq 0 0 0 0 1 with inta := some ⟨b, 0x34#8, 0x12#8⟩ }
    boundaryIs s (some .intr) = true ∧ s.presentInputs.intaBytes.byte1 = b := by decide

theorem witness_IntrEntry_rst : 0xC7#8 = 0xC7#8 + 8#8 * (0#3).setWidth 8 ∧ 0xFF#8 = 0xC7#8 + 8#8 * (7#3).setWidth 8 := by decide

theorem witness_IntrEntry_refused : (∀ n : BitVec 3, (0x00#8 : Byte) ≠ 0xC7#8 + 8#8 * n.setWidth 8) ∧
    (0x00#8 : Byte) ≠ 0xCD#8 := by decide

theorem witness_EiDelaysRecognition : ∃ s t, RunsInstruction s ∧ s.presentInputs.fetchInstr.1 = .ei ∧ step s = .next t :=
  ⟨start [0xFB#8], _, ⟨by decide, by decide, by decide⟩, by decide, rfl⟩

theorem witness_OnlyEiSetsInterruptEnable : ∃ s t, step s = .next t ∧ s.ctl.ie = false ∧ t.ctl.ie = true :=
  ⟨start [0xFB#8], _, rfl, by decide, by decide⟩

/-- The edge meets a mask, IE = 0, and the EI shadow, over a NOP; a halted machine with SIM at PC and bit 4 of A set; and a SIM
run with every bit of A but bit 4 set, and with A = 00H. -/
theorem witness_BlockedEdgeIsRemembered : ∀ x ∈
    [({ enabled with m75 := true }, 0x00#8, 0x00#8), ({ enabled with ie := false }, 0x00#8, 0x10#8),
      ({ enabled with eiShadow := true }, 0x00#8, 0x10#8), ({ enabled with ie := false, halted := true }, 0x30#8, 0x10#8),
      ({ enabled with m75 := true }, 0x30#8, 0xEF#8), ({ enabled with ie := false }, 0x30#8, 0x00#8)],
    let s := (start [x.2.1]).setReg .a x.2.2 |> withCtl x.1 |> presenting (irq 0 1 0 0 0)
    gives s (fun t => t.ctl.i75) = true ∧ s.presentInputs.env.pins.reset = false ∧ s.nextRecord.irq.r75Rise = true ∧
    (s.ctl.m75 = true ∨ s.ctl.ie = false ∨ s.ctl.eiShadow = true) ∧
    ¬(RunsInstruction s ∧ s.presentInputs.fetchInstr.1 = .sim ∧ (s.reg .a).getLsbD 4 = true) := by
  unfold RunsInstruction
  decide

/-- An interrupt entry with SIM at PC and bit 4 of A set. -/
theorem witness_BlockedEdgeIsRemembered_entry :
    let s := (start [0x30#8]).setReg .a 0x10#8 |> withCtl { enabled with m75 := true } |> presenting (irq 0 1 1 0 0)
    boundaryIs s (some (.internal .rst65)) = true ∧ gives s (fun t => t.ctl.i75) = true ∧
    s.presentInputs.fetchInstr.1 = .sim := by decide

theorem witness_RimAfterTrapReportsSavedEnable : ∀ c ∈ [enabled, State.reset.ctl],
    let s := start [] |> withCtl c |> presenting (irq 1 0 0 0 0)
    boundaryIs s (some (.internal .trap)) = true ∧ gives s (fun _ => true) = true := by decide

/-- The return address straddles the end of memory. -/
theorem witness_RetUndoesInterruptEntry :
    let s := { start [] with sp := 0x0001#16 } |> withCtl enabled |> presenting (irq 0 0 1 0 0)
    boundaryIs s (some (.internal .rst65)) = true ∧ s.kindAt (s.sp - 1) = .ram ∧ s.kindAt (s.sp - 2) = .ram ∧
    gives s (fun _ => true) = true := by decide

/-- IN 8CH, with a record scheduled. -/
theorem witness_StepAdvancesEnvironment : ∃ s t, step s = .next t ∧ s.env.schedule ≠ [] :=
  ⟨start [0xDB#8, 0x8C#8], _, rfl, by decide⟩

theorem witness_FaultsOnlyFromUndefinedBytes : ∃ s f, step s = .fault f := ⟨start [0xCB#8], _, rfl⟩

theorem witness_RefusalsOnlyFromInsertedInstructions : ∃ s r, step s = .refused r :=
  ⟨start [] |> withCtl enabled |> presenting { irq 0 0 0 0 1 with inta := some ⟨0x76#8, 0x00#8, 0x00#8⟩ }, _, rfl⟩

/-- A store of 00H, which removes a cell, to a memory that lists cells at both ends. -/
theorem witness_StepKeepsMemoryCanonical : ∃ s t, Memory.wf s.mem = true ∧ step s = .next t :=
  ⟨placeBytes 0xFFFF#16 [0x11#8, 0x22#8] (start [0x32#8, 0xFF#8, 0xFF#8]), _, by decide, rfl⟩

theorem witness_StepKeepsShadowUnderEnable : ∃ s t, (s.ctl.eiShadow = true → s.ctl.ie = true) ∧ s.ctl.eiShadow = true ∧
    step s = .next t :=
  ⟨start [0xF3#8] |> withCtl { enabled with eiShadow := true }, _, by decide, by decide, rfl⟩

theorem witness_ResetEvent :
    (presenting { irq 1 1 1 1 1 with reset := true } (start [])).presentInputs.env.pins.reset = true := by
  decide

/-- One instruction of each of the classes that keep flags. -/
theorem witness_FlagsChangeOnlyWhereListed : ∀ i ∈ [(Instr.movRR .a .b, FlagUse.none), (.rlc, .carryOnly),
      (.dcr .m, .allButCarry), (.daa, .all)],
    flagUse i.1 = i.2 ∧ ∃ t, exec i.1 (start []) = .next t := by
  simp only [List.forall_mem_cons]
  exact ⟨⟨rfl, _, rfl⟩, ⟨rfl, _, rfl⟩, ⟨rfl, _, rfl⟩, ⟨rfl, _, rfl⟩, by simp⟩

theorem witness_ControlStateChangesOnlyWhereListed : ∀ i ∈ [Instr.ret, .hlt, .di, .ei, .rim, .sim],
    ∃ t, exec i (start []) = .next t := by
  simp only [List.forall_mem_cons]
  exact ⟨⟨_, rfl⟩, ⟨_, rfl⟩, ⟨_, rfl⟩, ⟨_, rfl⟩, ⟨_, rfl⟩, ⟨_, rfl⟩, by simp⟩

theorem witness_MemoryChangesOnlyWhereListed : storesToMemory (.inr (.reg .b)) = false ∧ storesToMemory .ret = false ∧
    (∃ t, exec (.inr (.reg .b)) (start []) = .next t) ∧ ∃ t, exec .ret (start []) = .next t :=
  ⟨rfl, rfl, ⟨_, rfl⟩, ⟨_, rfl⟩⟩

theorem witness_StackPointerAndCounterChangeOnlyWhereListed :
    writesStackPointer .pchl = false ∧ writesProgramCounter (.pushRp .bc) = false ∧
    (∃ t, exec .pchl (start []) = .next t) ∧ ∃ t, exec (.pushRp .bc) (start []) = .next t :=
  ⟨rfl, rfl, ⟨_, rfl⟩, ⟨_, rfl⟩⟩

/-- A map with every kind of address: nothing in the page at 4000H, ROM at 8000H, a device in the last page, RAM elsewhere. -/
def mapped : State :=
  { start [] with
    env := { (start []).env with
      memMap := [⟨0x4000#16, 256, .unpopulated⟩, ⟨0x8000#16, 256, .rom⟩, ⟨0xFF00#16, 256, .device⟩] } }

/-- Both ends of each region, and their neighbours. -/
theorem witness_WritesReachOnlyRam : ∀ x ∈ [(0x3FFF#16, MemKind.ram), (0x4000#16, .unpopulated), (0x40FF#16, .unpopulated),
      (0x4100#16, .ram), (0x8000#16, .rom), (0x80FF#16, .rom), (0xFEFF#16, .ram), (0xFF00#16, .device), (0xFFFF#16, .device),
      (0x0000#16, .ram)],
    mapped.kindAt x.1 = x.2 := by decide

theorem witness_DeviceAccessesAreRecorded :
    mapped.kindAt 0xFFFF#16 = .device ∧ mapped.kindAt 0x4000#16 = .unpopulated := by decide

/-- The state with its stack, and HL, at the last and the first address of the device page. -/
def deviceStack : State := ({ mapped with sp := 0xFFFF#16 }.setReg .h 0xFF#8).setReg .l 0x00#8

/-- An internal source and INTR pending with the stack in the device page, the step answering a next state. -/
theorem witness_DeviceAccessesAreRecorded_entry : ∀ x ∈ [(irq 1 0 0 0 0, Source.internal .trap),
      ({ irq 0 0 0 0 1 with inta := some ⟨0xFF#8, 0x00#8, 0x00#8⟩ }, .intr)],
    let s := deviceStack |> withCtl enabled |> presenting x.1
    boundaryIs s (some x.2) = true ∧ gives s (fun _ => true) = true ∧ s.kindAt (s.sp - 1) = .device ∧
    s.kindAt (s.sp - 2) = .device := by decide

theorem witness_PushThenPop :
    let s : State := { mapped with sp := 0x0102#16 }
    s.kindAt (s.sp - 1) = .ram ∧ s.kindAt (s.sp - 2) = .ram := by decide

/-- The premises of `QuietAccesses`: reads of ROM, writes of RAM. -/
theorem witness_QuietAccesses : mapped.holdsMemory 0x8000#16 = true ∧ mapped.holdsMemory 0x80FF#16 = true ∧
    mapped.kindAt 0x2100#16 = .ram ∧ mapped.kindAt 0x20FF#16 = .ram := ⟨rfl, rfl, rfl, rfl⟩

/-- A register moved to itself. -/
theorem witness_RegisterMovesAndImmediates : exec (.movRR .h .h) (start []) = .next (start []) := rfl

/-- `CallsIf` and `ReturnsIf` with the condition true and false. -/
theorem witness_Calls : (withFlags 1 0 1 0 1 (start [])).flags.cy = true ∧ (withFlags 1 0 1 0 1 (start [])).flags.z = false ∧
    (withFlags 1 0 1 0 1 (start [])).flags.s = true ∧ (withFlags 1 0 1 0 1 (start [])).flags.p = false := by decide

theorem witness_DaaAdjustsSequentially :
    let s := (start []).setReg .a 0x9A#8
    0xA0 = (s.reg .a).toNat + (if 9 < (s.reg .a).toNat % 16 ∨ s.flags.ac = true then 6 else 0) ∧
    0x100 = 0xA0 + (if 9 < 0xA0 / 16 ∨ s.flags.cy = true then 96 else 0) := by decide

theorem witness_StoresToM : ∃ (s : State) (a : Word), a = wordOf (s.reg .h) (s.reg .l) ∧ a = 0xFFFF#16 :=
  ⟨((start []).setReg .h 0xFF#8).setReg .l 0xFF#8, _, rfl, rfl⟩

theorem witness_IncrementAndDecrement : ∃ (s : State) (a : Word) (v : Byte),
    a = wordOf (s.reg .h) (s.reg .l) ∧ v = s.byteAt a ∧ v = 0x34#8 :=
  ⟨placeBytes 0x0000#16 [0x34#8] (start []), _, _, rfl, rfl, rfl⟩

theorem witness_Rotates : ∃ (s : State) (a : Nat), a = (s.reg .a).toNat ∧ a = 255 :=
  ⟨(start []).setReg .a 0xFF#8, _, rfl, rfl⟩

/-- A 3-byte instruction: the clauses of both operand bytes. -/
theorem witness_FetchReadsAndAdvances :
    (start [0xC3#8, 0x34#8, 0x12#8]).fetchInstr.1 = .jmp 0x1234#16 ∧
    (encode (.jmp 0x1234#16))[1]? = some 0x34#8 ∧ (encode (.jmp 0x1234#16))[2]? = some 0x12#8 := by decide

/-- 99 with the carry in, the largest sum. -/
theorem witness_DaaAfterAdditionIsDecimal :
    (((start []).setReg .a 0x99#8).reg .a).toNat = 16 * 9 + 9 ∧ 9 ≤ 9 := by decide

end Sys2Proof.Tests
end

