-- ==== Sys2Proof/Proofs/Scope.lean ====
section
/-! PROOF. The stack helpers of 00_scope.md R11: what a pop after a push answers, and the state it leaves. -/

namespace Sys2Proof.Proofs

open Sys2Proof Sys2Proof.Machine Sys2Proof.Safety

/-- A pop from memory moves SP and changes nothing else. -/
theorem pop16_snd {s : State} (hlo : s.holdsMemory s.sp = true) (hhi : s.holdsMemory (s.sp + 1) = true) :
    s.pop16.2 = { s with sp := s.sp + 2 } := by
  have hsp : s.sp + 1 + 1 = s.sp + 2 := by bv_omega
  have hhi' : ({ s with sp := s.sp + 1 } : State).holdsMemory (s.sp + 1) = true := hhi
  simp only [State.pop16, State.memRead_snd, State.afterRead_of_holdsMemory hlo, State.afterRead_of_holdsMemory hhi',
    hsp]

/-- A push leaves the address above its SP where the first of its bytes went. -/
theorem push16_sp_add_one (v : Word) (s : State) : (s.push16 v).sp + 1 = s.sp - 1 := by
  rw [State.push16_sp]
  bv_omega

section

variable {s : State} (hhi : s.kindAt (s.sp - 1) = .ram) (hlo : s.kindAt (s.sp - 2) = .ram)
include hlo

/-- The address a pop reads first after a push in RAM. -/
theorem push16_holdsMemory_sp (v : Word) : (s.push16 v).holdsMemory (s.push16 v).sp = true := by
  rw [State.push16_sp, State.holdsMemory_congr (State.push16_env v s)]
  exact State.holdsMemory_of_ram hlo

/-- The low-order byte lies at the new SP. -/
theorem push16_read_sp (v : Word) : Memory.read (s.push16 v).mem (s.push16 v).sp.toNat = loByte v := by
  rw [State.push16_sp, State.push16_read, if_pos ⟨rfl, hlo⟩]

omit hlo
include hhi

/-- The address a pop reads second after a push in RAM. -/
theorem push16_holdsMemory_sp_add_one (v : Word) : (s.push16 v).holdsMemory ((s.push16 v).sp + 1) = true := by
  rw [push16_sp_add_one, State.holdsMemory_congr (State.push16_env v s)]
  exact State.holdsMemory_of_ram hhi

/-- The high-order byte lies above the new SP: the low-order byte, stored later, does not overwrite it. -/
theorem push16_read_sp_add_one (v : Word) : Memory.read (s.push16 v).mem ((s.push16 v).sp + 1).toNat = hiByte v := by
  have hne : (s.sp - 1).toNat ≠ (s.sp - 2).toNat := by bv_omega
  rw [push16_sp_add_one, State.push16_read, if_neg fun h => hne h.1, if_pos ⟨rfl, hhi⟩]

include hlo

/-- The word comes back: the two bytes are read in the order of R11. -/
theorem pop16_push16_fst (v : Word) : (s.push16 v).pop16.1 = v := by
  rw [State.pop16_fst (push16_holdsMemory_sp hlo v) (push16_holdsMemory_sp_add_one hhi v),
    push16_read_sp_add_one hhi, push16_read_sp hlo, wordOf_hiByte_loByte]

/-- SP comes back, and the pop leaves everything else as the push left it. -/
theorem pop16_push16_snd (v : Word) : (s.push16 v).pop16.2 = { s.push16 v with sp := s.sp } := by
  have hsp : (s.push16 v).sp + 2 = s.sp := by rw [State.push16_sp]; bv_omega
  rw [pop16_snd (push16_holdsMemory_sp hlo v) (push16_holdsMemory_sp_add_one hhi v), hsp]

/-- A push in RAM changes SP and memory only: no device sees it. -/
theorem push16_changesOnly (v : Word) : ChangesOnly [] [.sp, .memory] s (s.push16 v) := by
  have hevents : (s.push16 v).events = s.events := State.push16_events (hhi ▸ nofun) (hlo ▸ nofun) v
  exact changesOnly_of (fun r _ => State.push16_reg v s r) (.inl (by simp)) (.inr (State.push16_pc v s))
    (.inr (State.push16_flags v s)) (.inr (State.push16_ctl v s)) (.inl (by simp)) (.inr hevents) (State.push16_env v s)

end

/-- Settles O29: the frame of the push, the bytes it stores, and the two halves of the pop that follows. -/
theorem pushThenPop : Obligations.PushThenPop := by
  intro v s hhi hlo
  exact ⟨State.push16_sp v s, push16_memoryAfter v rfl, push16_changesOnly hhi hlo v,
    pop16_push16_fst hhi hlo v, pop16_push16_snd hhi hlo v⟩

end Sys2Proof.Proofs
end

