-- ==== Sys2Proof/Proofs/State.lean ====
section
/-! PROOF. The state of 10_state.md: what the decoder and the fetch do, what each instruction leaves unchanged of the flags, the
control state, SP and PC, and what follows for every step. -/

namespace Sys2Proof.Proofs

open Sys2Proof Sys2Proof.Machine Sys2Proof.Safety

/-! ### What the shared operations leave unchanged -/

@[simp] theorem callIf_flags (k : Cond) (target : Word) (s : State) : (s.callIf k target).flags = s.flags := by
  unfold State.callIf; split <;> simp

@[simp] theorem callIf_ctl (k : Cond) (target : Word) (s : State) : (s.callIf k target).ctl = s.ctl := by
  unfold State.callIf; split <;> simp

@[simp] theorem returnIf_flags (k : Cond) (s : State) : (s.returnIf k).flags = s.flags := by
  unfold State.returnIf; split <;> simp

@[simp] theorem returnIf_ctl (k : Cond) (s : State) : (s.returnIf k).ctl = s.ctl := by
  unfold State.returnIf; split <;> simp

/-- Only the pair code of SP reaches SP (10_state.md R21, R22). -/
theorem setPair_sp_of_ne {p : Pair} (h : p ≠ .sp) (v : Word) (s : State) : (s.setPair p v).sp = s.sp := by
  cases p with
  | bc | de | hl => rfl
  | sp => exact absurd rfl h

@[simp] theorem resetEvent_ctl (s : State) : s.resetEvent.ctl =
    { ie := false, m75 := true, m65 := true, m55 := true, i75 := false, trapFF := false, sod := false,
      halted := false, eiShadow := false, trapIeSaved := s.ctl.trapIeSaved, trapRimArmed := false } := rfl

@[simp] theorem takeInternal_ctl (x : Internal) (s : State) : (s.takeInternal x).ctl =
    { (s.acknowledge x).ctl with halted := false, ie := false, eiShadow := false } :=
  State.enterInterrupt_ctl x.vector (s.acknowledge x)

/-- Bit 3 of the image RIM reads: the saved IE while TRAP_RIM_ARMED is 1, else IE (10_state.md R34, R35). -/
theorem rimImage_bit3 (s : State) :
    s.rimImage.getLsbD 3 = if s.ctl.trapRimArmed then s.ctl.trapIeSaved else s.ctl.ie := by
  unfold State.rimImage
  rw [byteOfBits_getLsbD]
  rfl

/-- The three actions of SIM on the control state, each under its own bit of the image (10_state.md R35). -/
theorem applySimImage_ctl (v : Byte) (s : State) : (s.applySimImage v).ctl =
    { s.ctl with
      m75 := if v.getLsbD 3 then v.getLsbD 2 else s.ctl.m75
      m65 := if v.getLsbD 3 then v.getLsbD 1 else s.ctl.m65
      m55 := if v.getLsbD 3 then v.getLsbD 0 else s.ctl.m55
      i75 := if v.getLsbD 4 then false else s.ctl.i75
      sod := if v.getLsbD 6 then v.getLsbD 7 else s.ctl.sod } := by
  unfold State.applySimImage State.loadSod Control.clearRst75 Control.loadMasks
  split_ifs <;> rfl

/-! ### Which instructions write the flags (10_state.md R26)

Every meaning is a composition of shared operations. The cases an instruction's class rules out are named; in each of the others
the field lemma of the operation says that the field is kept. -/

section

variable {i : Instr} {s t : State} (h : exec i s = .next t)
include h

theorem exec_flags_of_none (hu : flagUse i = .none) : t.flags = s.flags := by
  cases i with
  | add _ | adc _ | sub _ | sbb _ | adi _ | aci _ | sui _ | sbi _ | cmp _ | cpi _ | daa | popA | ana _ | ani _ | xra _
  | xri _ | ora _ | ori _ | inr _ | dcr _ | dad _ | rlc | rrc | ral | rar | cmc | stc => cases hu
  | _ => cases h <;> simp

theorem exec_flags_of_carryOnly (hu : flagUse i = .carryOnly) : t.flags = { s.flags with cy := t.flags.cy } := by
  cases i with
  | dad _ | rlc | rrc | ral | rar | cmc | stc => cases h; rfl
  | _ => cases hu

theorem exec_cy_of_allButCarry (hu : flagUse i = .allButCarry) : t.flags.cy = s.flags.cy := by
  cases i with
  | inr _ | dcr _ => cases h; rfl
  | _ => cases hu

/-! ### Which instructions write SP and PC (10_state.md R22, R23) -/

theorem exec_sp (hu : writesStackPointer i = false) : t.sp = s.sp := by
  cases i with
  | sphl | pushRp _ | pushA | popRp _ | popA | call _ | cc _ | cnc _ | cp _ | cm _ | cz _ | cnz _ | cpe _ | cpo _ | rst _
  | ret | rc | rnc | rp | rm | rz | rnz | rpe | rpo => cases hu
  | lxi p _ | inx p | dcx p =>
    have hp : p ≠ .sp := by rintro rfl; cases hu
    cases h
    exact setPair_sp_of_ne hp _ s
  | _ => cases h <;> simp [setPair_sp_of_ne]

theorem exec_pc (hu : writesProgramCounter i = false) : t.pc = s.pc := by
  cases i with
  | jmp _ | jc _ | jnc _ | jp _ | jm _ | jz _ | jnz _ | jpe _ | jpo _ | pchl | call _ | cc _ | cnc _ | cp _ | cm _ | cz _
  | cnz _ | cpe _ | cpo _ | rst _ | ret | rc | rnc | rp | rm | rz | rnz | rpe | rpo => cases hu
  | _ => cases h <;> simp

/-! ### Which instructions write the control state (10_state.md R28 to R34) -/

theorem exec_ctl (hi : i ∉ [Instr.hlt, .di, .ei, .rim, .sim]) : t.ctl = s.ctl := by
  cases i with
  | hlt | di | ei | rim | sim => exact absurd (by decide) hi
  | _ => cases h <;> simp

end

section

variable {s t : State}

theorem exec_hlt_ctl (h : exec .hlt s = .next t) : t.ctl = { s.ctl with halted := true } := by
  cases h; rfl

theorem exec_di_ctl (h : exec .di s = .next t) : t.ctl = { s.ctl with ie := false, eiShadow := false } := by
  cases h; rfl

theorem exec_ei_ctl (h : exec .ei s = .next t) : t.ctl = { s.ctl with ie := true, eiShadow := true } := by
  cases h; rfl

theorem exec_rim_ctl (h : exec .rim s = .next t) : t.ctl = { s.ctl with trapRimArmed := false } := by
  cases h; rfl

theorem exec_sim_ctl (h : exec .sim s = .next t) : t.ctl = (s.applySimImage (s.reg .a)).ctl := by
  cases h; rfl

/-- What RIM leaves in A for IE (10_state.md R34, 44_control.md R244). -/
theorem exec_rim_bit3 (h : exec .rim s = .next t) :
    (t.reg .a).getLsbD 3 = if s.ctl.trapRimArmed then s.ctl.trapIeSaved else s.ctl.ie := by
  rw [← rimImage_bit3]
  cases h; rfl

/-- The only instruction that raises IE is EI (10_state.md R28). -/
theorem eq_ei_of_exec_raises_ie {i : Instr} (h : exec i s = .next t) (hs : s.ctl.ie = false) (ht : t.ctl.ie = true) :
    i = .ei := by
  by_contra hne
  by_cases hi : i ∈ [Instr.hlt, .di, .ei, .rim, .sim]
  · simp only [List.mem_cons, hne, List.not_mem_nil, or_false, false_or] at hi
    rcases hi with rfl | rfl | rfl | rfl
    · simp [exec_hlt_ctl h, hs] at ht
    · simp [exec_di_ctl h] at ht
    · simp [exec_rim_ctl h, hs] at ht
    · simp [exec_sim_ctl h, applySimImage_ctl, hs] at ht
  · simp [exec_ctl h hi, hs] at ht

end

/-! ### The decoder reads what the encoder writes (30_encoding.md R80 to R89) -/

theorem withWord_wordOf (op hi lo : Byte) : withWord op (wordOf hi lo) = [op, lo, hi] := by
  simp [withWord]

theorem exists_eq_wordOf (v : Word) : ∃ hi lo, v = wordOf hi lo := ⟨hiByte v, loByte v, (wordOf_hiByte_loByte v).symm⟩

theorem decodeInstr_rst : ∀ n : BitVec 3,
    instrLength (fields233 0b11#2 n 0b111#3) = 1 ∧ decodeInstr (fields233 0b11#2 n 0b111#3) 0 0 = .rst n := by
  decide

/-- The opcode byte is closed once the operand codes are split, so the decoder computes; operand bytes stay variables. -/
theorem decode_encode (i : Instr) (rest : List Byte) (h : i.wellFormed = true) :
    decode (encode i ++ rest) = .ok (i, rest) := by
  cases i with
  | lda a | lhld a | sta a | shld a | jmp a | jc a | jnc a | jp a | jm a | jz a | jnz a | jpe a | jpo a | call a | cc a
  | cnc a | cp a | cm a | cz a | cnz a | cpe a | cpo a =>
    obtain ⟨hi, lo, rfl⟩ := exists_eq_wordOf a
    rw [encode, withWord_wordOf]
    rfl
  | lxi p a =>
    obtain ⟨hi, lo, rfl⟩ := exists_eq_wordOf a
    rw [encode, withWord_wordOf]
    cases p <;> rfl
  | movRR r q => cases r <;> cases q <;> rfl
  | movRM r | movMR r | mviR r _ => cases r <;> rfl
  | add o | adc o | sub o | sbb o | inr o | dcr o | ana o | xra o | ora o | cmp o =>
    cases o with
    | reg r => cases r <;> rfl
    | m => rfl
  | dad p | inx p | dcx p => cases p <;> rfl
  | ldax p | stax p =>
    cases p with
    | bc | de => rfl
    | hl | sp => cases h
  | pushRp p | popRp p =>
    cases p with
    | bc | de | hl => rfl
    | sp => cases h
  | rst n =>
    obtain ⟨hlen, hrow⟩ := decodeInstr_rst n
    simp only [encode, decode, List.cons_append, List.nil_append, hlen, hrow]
  | _ => rfl

/-- The decoder takes one, two or three bytes, as the opcode says (30_encoding.md R80). -/
theorem decode_ok_cases {bytes rest : List Byte} {i : Instr} (h : decode bytes = .ok (i, rest)) :
    (∃ op, bytes = op :: rest ∧ instrLength op = 1 ∧ decodeInstr op 0 0 = i) ∨
    (∃ op b2, bytes = op :: b2 :: rest ∧ instrLength op = 2 ∧ decodeInstr op b2 0 = i) ∨
    (∃ op b2 b3, bytes = op :: b2 :: b3 :: rest ∧ instrLength op = 3 ∧ decodeInstr op b2 b3 = i) := by
  unfold decode at h
  split at h
  · cases h
  · rename_i op _
    split at h <;> cases h
    · rename_i hlen
      exact .inl ⟨op, rfl, hlen, rfl⟩
    · rename_i b2 hlen
      exact .inr (.inl ⟨op, b2, rfl, hlen, rfl⟩)
    · rename_i b2 b3 hlen
      exact .inr (.inr ⟨op, b2, b3, rfl, hlen, rfl⟩)

/-- Every one of the 256 opcode bytes selects a well-formed instruction, whose encoding begins with that byte (30_encoding.md
R87). The three-byte rows keep their operand as a word, so that each row holds by computation. -/
theorem decodeInstr_row (op b2 b3 : Byte) :
    (decodeInstr op b2 b3).wellFormed = true ∧
      encode (decodeInstr op b2 b3) =
        if instrLength op = 3 then withWord op (wordOf b3 b2) else [op, b2].take (instrLength op) := by
  have e : op = BitVec.ofNat 8 op.toNat := by simp
  rw [e]
  have h := op.isLt
  generalize op.toNat = n at h ⊢
  interval_cases n <;> exact ⟨rfl, rfl⟩

theorem decodeInstr_wellFormed (op b2 b3 : Byte) : (decodeInstr op b2 b3).wellFormed = true :=
  (decodeInstr_row op b2 b3).1

theorem encode_decodeInstr (op b2 b3 : Byte) :
    encode (decodeInstr op b2 b3) = [op, b2, b3].take (instrLength op) := by
  rw [(decodeInstr_row op b2 b3).2, withWord_wordOf]
  rcases instrLength_cases op with h | h | h <;> simp [h]

/-! ### The fetch (10_state.md R24) -/

/-- The bytes of the instruction fetched are those the reads at PC, PC+1 and PC+2 answer, each read after the one before. -/
theorem encode_fetchInstr (s : State) :
    encode s.fetchInstr.1 =
      [s.byteAt s.pc, (s.afterRead s.pc).byteAt (s.pc + 1),
        ((s.afterRead s.pc).afterRead (s.pc + 1)).byteAt (s.pc + 2)].take (instrLength (s.byteAt s.pc)) := by
  rcases instrLength_cases (s.byteAt s.pc) with hlen | hlen | hlen
  · rw [State.fetchInstr_one hlen, encode_decodeInstr, hlen]; rfl
  · rw [State.fetchInstr_two hlen, encode_decodeInstr, hlen]; rfl
  · rw [State.fetchInstr_three hlen, encode_decodeInstr, hlen]

theorem length_encode_fetchInstr (s : State) : (encode s.fetchInstr.1).length = instrLength (s.byteAt s.pc) := by
  rw [encode_fetchInstr]
  rcases instrLength_cases (s.byteAt s.pc) with hlen | hlen | hlen <;> simp [hlen]

theorem fetchInstr_snd (s : State) :
    s.fetchInstr.2 =
      { ([s.pc, s.pc + 1, s.pc + 2].take (instrLength (s.byteAt s.pc))).foldl (fun u a => u.afterRead a) s with
        pc := s.pc + BitVec.ofNat 16 (instrLength (s.byteAt s.pc)) } := by
  rcases instrLength_cases (s.byteAt s.pc) with hlen | hlen | hlen
  · rw [State.fetchInstr_one hlen, hlen]; rfl
  · rw [State.fetchInstr_two hlen, hlen]; rfl
  · rw [State.fetchInstr_three hlen, hlen]; rfl

/-- Reading memory, at however many addresses, has no side effect (20_memory.md R56). -/
theorem foldl_afterRead_of_holdsMemory {s : State} {reads : List Word} (h : ∀ a ∈ reads, s.holdsMemory a = true) :
    reads.foldl (fun u a => u.afterRead a) s = s := by
  induction reads with
  | nil => rfl
  | cons a rest ih =>
    rw [List.foldl_cons, State.afterRead_of_holdsMemory (h a List.mem_cons_self)]
    exact ih fun b hb => h b (List.mem_cons_of_mem a hb)

theorem fetchInstr_changesOnly (s : State) : ChangesOnly [] [.pc, .events] s s.fetchInstr.2 :=
  changesOnly_of (fun r _ => State.reg_congr (by simp) r) (.inr (by simp)) (.inl (by simp)) (.inr (by simp))
    (.inr (by simp)) (.inr (by simp)) (.inl (by simp)) (by simp)

/-- Where the bytes of an instruction stand in memory at PC, that instruction is fetched, and nothing but PC changes. -/
theorem fetchInstr_of_code {i : Instr} {s : State} (hw : i.wellFormed = true)
    (hcode : ∀ (k : Nat) (h : k < (encode i).length),
      s.holdsMemory (s.pc + BitVec.ofNat 16 k) = true ∧ s.byteAt (s.pc + BitVec.ofNat 16 k) = (encode i)[k]) :
    s.fetchInstr = (i, { s with pc := s.pc + BitVec.ofNat 16 (encode i).length }) := by
  have hdecode : decode (encode i) = .ok (i, []) := by simpa using decode_encode i [] hw
  rcases decode_ok_cases hdecode with
    ⟨op, hbytes, hlen, rfl⟩ | ⟨op, b2, hbytes, hlen, rfl⟩ | ⟨op, b2, b3, hbytes, hlen, rfl⟩
  all_goals
    simp only [hbytes] at hcode ⊢
    obtain ⟨hm0, rfl⟩ : s.holdsMemory s.pc = true ∧ s.byteAt s.pc = op := by simpa using hcode 0 (by simp)
  · rw [State.fetchInstr_one hlen, State.afterRead_of_holdsMemory hm0]
    rfl
  · obtain ⟨hm1, rfl⟩ : s.holdsMemory (s.pc + 1) = true ∧ s.byteAt (s.pc + 1) = b2 := hcode 1 (by simp)
    rw [State.fetchInstr_two hlen, State.afterRead_of_holdsMemory hm0, State.afterRead_of_holdsMemory hm1]
    rfl
  · obtain ⟨hm1, rfl⟩ : s.holdsMemory (s.pc + 1) = true ∧ s.byteAt (s.pc + 1) = b2 := hcode 1 (by simp)
    obtain ⟨hm2, rfl⟩ : s.holdsMemory (s.pc + 2) = true ∧ s.byteAt (s.pc + 2) = b3 := hcode 2 (by simp)
    rw [State.fetchInstr_three hlen, State.afterRead_of_holdsMemory hm0, State.afterRead_of_holdsMemory hm1,
      State.afterRead_of_holdsMemory hm2]
    rfl

/-! ### The boundary (60_exceptions.md R264, R266) -/

theorem presentInputs_holdsMemory (a : Word) (s : State) : s.presentInputs.holdsMemory a = s.holdsMemory a := rfl

/-- Counting the boundary gives other free values, but memory reads as before. -/
theorem presentInputs_byteAt {a : Word} {s : State} (h : s.holdsMemory a = true) :
    s.presentInputs.byteAt a = s.byteAt a := by
  have hp : s.presentInputs.holdsMemory a = true := (presentInputs_holdsMemory a s).trans h
  rw [State.byteAt_of_holdsMemory h, State.byteAt_of_holdsMemory hp, State.presentInputs_mem]

/-- A step at whose boundary an internal source comes first is that source's entry (60_exceptions.md R266, R267). -/
theorem step_takesInternal {s : State} {x : Internal} (hreset : s.presentInputs.env.pins.reset = false)
    (hpending : s.presentInputs.pending = some (.internal x)) : step s = .next (s.presentInputs.takeInternal x) := by
  unfold step State.machineStep State.boundaryStep
  rw [hreset, hpending]
  rfl

/-! ### The statements -/

/-- Settles O20: reset and interrupt entry clear EI_SHADOW, a wait keeps both, and an instruction leaves it set only if it was
EI, which sets IE. -/
theorem stepKeepsShadowUnderEnable : Obligations.StepKeepsShadowUnderEnable := by
  intro s t hinv h hshadow
  rcases step_cases h with ⟨-, rfl⟩ | ⟨-, x, -, rfl⟩ | ⟨-, -, target, -, rfl⟩ | ⟨-, -, -, rfl⟩ | ⟨-, u, hu, rfl⟩
  · simp at hshadow
  · simp at hshadow
  · simp at hshadow
  · exact hinv hshadow
  · have hei : s.presentInputs.fetchInstr.1 = .ei := by simpa using hshadow
    rw [hei] at hu
    simp [exec_ei_ctl hu]

/-- Settles O5, by the three lengths an instruction can have. -/
theorem fetchReadsAndAdvances : Obligations.FetchReadsAndAdvances := by
  intro s
  have hpos : 0 < instrLength (s.byteAt s.pc) := by
    rcases instrLength_cases (s.byteAt s.pc) with hlen | hlen | hlen <;> simp [hlen]
  refine ⟨s.fetchInstr.1, s.fetchInstr.2, rfl, decodeInstr_wellFormed _ _ _, ?_, fun v hv => ?_, fun v hv => ?_, ?_,
    fetchInstr_changesOnly s, fun hmem _ => ?_⟩
  · simp [encode_fetchInstr, hpos]
  · simp only [encode_fetchInstr, List.getElem?_take, Option.ite_none_right_eq_some] at hv
    exact (Option.some.inj hv.2).symm
  · simp only [encode_fetchInstr, List.getElem?_take, Option.ite_none_right_eq_some] at hv
    exact (Option.some.inj hv.2).symm
  · rw [length_encode_fetchInstr, fetchInstr_snd]
  · rw [length_encode_fetchInstr] at hmem
    rw [fetchInstr_snd, foldl_afterRead_of_holdsMemory hmem]

/-- Settles O11: of the five things a step can be, only an instruction can raise IE, and only EI does. -/
theorem onlyEiSetsInterruptEnable : Obligations.OnlyEiSetsInterruptEnable := by
  intro s t h hs ht
  rcases step_cases h with ⟨-, rfl⟩ | ⟨-, x, -, rfl⟩ | ⟨-, -, target, -, rfl⟩ | ⟨-, -, -, rfl⟩ | ⟨hrun, u, hu, rfl⟩
  · simp at ht
  · simp at ht
  · simp at ht
  · simp [hs] at ht
  · exact ⟨hrun, eq_ei_of_exec_raises_ie hu (by simpa using hs) (by simpa using ht)⟩

/-- Settles O13: entry saves IE and arms RIM; the first RIM reads the saved IE and disarms, so the second reads IE itself. -/
theorem rimAfterTrapReportsSavedEnable : Obligations.RimAfterTrapReportsSavedEnable := by
  intro s t hreset hpending h
  obtain rfl : s.presentInputs.takeInternal .trap = t :=
    Host.Outcome.next.inj ((step_takesInternal hreset hpending).symm.trans h)
  obtain ⟨u, hu⟩ : ∃ u, exec .rim (s.presentInputs.takeInternal .trap) = .next u := ⟨_, rfl⟩
  obtain ⟨v, hv⟩ : ∃ v, exec .rim u = .next v := ⟨_, rfl⟩
  refine ⟨u, v, hu, ?_, hv, ?_⟩
  · rw [exec_rim_bit3 hu]
    simp [State.acknowledge]
  · rw [exec_rim_bit3 hv, exec_rim_ctl hu]
    simp

/-- Settles O23, by the class the instruction has in the table of 10_state.md R26. -/
theorem flagsChangeOnlyWhereListed : Obligations.FlagsChangeOnlyWhereListed :=
  fun _ _ _ h => ⟨exec_flags_of_none h, exec_flags_of_carryOnly h, exec_cy_of_allButCarry h⟩

/-- Settles O24, by the five instructions that write control state and the rest that do not. -/
theorem controlStateChangesOnlyWhereListed : Obligations.ControlStateChangesOnlyWhereListed := by
  intro i s t h
  refine ⟨exec_ctl h, ?_, ?_, ?_, ?_⟩
  · rintro rfl
    rw [exec_hlt_ctl h]
  · rintro (rfl | rfl)
    · rw [exec_di_ctl h]
    · rw [exec_ei_ctl h]
  · rintro rfl
    rw [exec_rim_ctl h]
  · rintro rfl
    rw [exec_sim_ctl h, applySimImage_ctl]

/-- Settles O26. -/
theorem stackPointerAndCounterChangeOnlyWhereListed : Obligations.StackPointerAndCounterChangeOnlyWhereListed :=
  fun _ _ _ h => ⟨exec_sp h, exec_pc h⟩

/-- Settles O4: the boundary lets an instruction run, and the fetch finds this one. -/
theorem stepRunsDecodedInstruction : Obligations.StepRunsDecodedInstruction := by
  intro i s hw hruns hcode
  have hfetch := fetchInstr_of_code (s := s.presentInputs) hw fun k hk => by
    obtain ⟨hmem, hbyte⟩ := hcode k hk
    exact ⟨hmem, (presentInputs_byteAt hmem).trans hbyte⟩
  rw [step_runsInstruction hruns, hfetch]
  rfl

/-- Settles O21: the state after reset is a fixed state, and its IE and EI_SHADOW are 0. -/
theorem resetState : Obligations.ResetState := ⟨rfl, rfl, rfl, nofun⟩

end Sys2Proof.Proofs
end

section
/-! PROOF. Memory and its map (20_memory.md): a byte written is read back from RAM only, every step keeps memory canonical, and the
accesses of R55 outside memory are the events a state records. -/

namespace Sys2Proof.Proofs

open Sys2Proof Sys2Proof.Machine Sys2Proof.Safety

/-! ### A write, by what the platform has at the address (20_memory.md R50) -/

section

variable {a : Word} {s : State}

theorem byteAt_memWrite_of_ram (h : s.kindAt a = .ram) (v : Byte) : (s.memWrite a v).byteAt a = v := by
  have hmem : (s.memWrite a v).holdsMemory a = true := by
    rw [State.holdsMemory_congr (State.memWrite_env a v s)]
    exact State.holdsMemory_of_ram h
  rw [State.byteAt_of_holdsMemory hmem, State.memWrite_read, if_pos ⟨rfl, h⟩]

theorem memWrite_of_ignored (h : s.kindAt a = .rom ∨ s.kindAt a = .unpopulated) (v : Byte) : s.memWrite a v = s := by
  rcases h with h | h <;> simp [State.memWrite, h]

theorem memWrite_of_device (h : s.kindAt a = .device) (v : Byte) : s.memWrite a v = s.note (.busWrite a v) := by
  simp [State.memWrite, h]

/-- A write changes at most the byte at its own address. -/
theorem byteAt_memWrite_of_ne {b : Word} (hne : b ≠ a) (h : s.holdsMemory b = true) (v : Byte) :
    (s.memWrite a v).byteAt b = s.byteAt b := by
  have hmem : (s.memWrite a v).holdsMemory b = true := by
    rwa [State.holdsMemory_congr (State.memWrite_env a v s)]
  have hnat : b.toNat ≠ a.toNat := fun e => hne (BitVec.eq_of_toNat_eq e)
  rw [State.byteAt_of_holdsMemory hmem, State.byteAt_of_holdsMemory h, State.memWrite_read, if_neg fun e => hnat e.1]

end

theorem memWrite_changesOnly (a : Word) (v : Byte) (s : State) :
    ChangesOnly [] [.memory, .events] s (s.memWrite a v) :=
  changesOnly_of (fun r _ => State.memWrite_reg a v s r) (.inr (State.memWrite_sp a v s)) (.inr (State.memWrite_pc a v s))
    (.inr (State.memWrite_flags a v s)) (.inr (State.memWrite_ctl a v s)) (.inl (by simp)) (.inl (by simp))
    (State.memWrite_env a v s)

/-! ### Which instructions store to memory (20_memory.md R55) -/

@[simp] theorem returnIf_mem (k : Cond) (s : State) : (s.returnIf k).mem = s.mem := by
  unfold State.returnIf; split <;> simp

theorem callIf_wf {s : State} (h : Memory.wf s.mem = true) (k : Cond) (target : Word) :
    Memory.wf (s.callIf k target).mem = true := by
  unfold State.callIf
  split
  · exact State.push16_wf h s.pc
  · exact h

section

variable {i : Instr} {s t : State} (h : exec i s = .next t)
include h

/-- INR and DCR have a write in the table for the operand M only. -/
theorem exec_mem (hi : storesToMemory i = false) : t.mem = s.mem := by
  cases i with
  | movMR _ | mviM _ | sta _ | stax _ | shld _ | xthl | pushRp _ | pushA | call _ | rst _ | cc _ | cnc _ | cp _ | cm _ | cz _
  | cnz _ | cpe _ | cpo _ => cases hi
  | inr o | dcr o =>
    cases o with
    | reg r => cases h; exact State.setReg_mem r _ s
    | m => cases hi
  | _ => cases h <;> simp

/-- A store writes bytes one at a time, or by a push; each keeps the canonical form. -/
theorem exec_wf (hwf : Memory.wf s.mem = true) : Memory.wf t.mem = true := by
  by_cases hi : storesToMemory i = true
  · cases i with
    | movMR _ | mviM _ | sta _ | stax _ => cases h; exact State.memWrite_wf hwf _ _
    | shld _ => cases h; exact State.memWrite_wf (State.memWrite_wf hwf _ _) _ _
    | xthl =>
      cases h
      simp only [State.memRead_snd, State.setPair_mem]
      exact State.memWrite_wf (State.memWrite_wf (by simpa using hwf) _ _) _ _
    | inr o | dcr o =>
      cases o with
      | reg r => cases hi
      | m =>
        cases h
        exact State.memWrite_wf (s := s.afterRead s.hl) (by simpa using hwf) _ _
    | pushRp _ | pushA | call _ | rst _ => cases h; exact State.push16_wf hwf _
    | cc _ | cnc _ | cp _ | cm _ | cz _ | cnz _ | cpe _ | cpo _ => cases h; exact callIf_wf hwf _ _
    | _ => cases hi
  · rw [exec_mem h (by simpa using hi)]
    exact hwf

end

/-! ### The record of accesses (20_memory.md R50, R56, R58) -/

/-- From `s` to `t` the environment's side is kept, and the record grows by those of the accesses `es` that the environment sees. -/
structure Records (s : State) (es : List Event) (t : State) : Prop where
  env : t.env = s.env
  events : t.events = s.events ++ es.filter (visible s)

theorem visible_congr {s t : State} (h : t.env = s.env) : visible t = visible s := by
  funext e
  cases e <;> simp [visible, State.holdsMemory_congr h, State.kindAt_congr h]

namespace Records

variable {s s' t t' u : State} {es fs : List Event}

/-- What is recorded depends on the environment's side and the record alone. -/
theorem congr_left (h : Records s es t) (hev : s'.events = s.events) (henv : s'.env = s.env) : Records s' es t :=
  ⟨by rw [h.env, henv], by rw [h.events, hev, visible_congr henv]⟩

theorem congr_right (h : Records s es t) (hev : t'.events = t.events) (henv : t'.env = t.env) : Records s es t' :=
  ⟨henv.trans h.env, hev.trans h.events⟩

/-- The accesses of one operation, then those of the next. -/
theorem trans (h : Records s es t) (h' : Records t fs u) : Records s (es ++ fs) u :=
  ⟨h'.env.trans h.env, by rw [h'.events, h.events, visible_congr h.env, List.filter_append, List.append_assoc]⟩

theorem of_nil (hev : t.events = s.events) (henv : t.env = s.env) : Records s [] t := ⟨henv, by simpa using hev⟩

end Records

/-! ### What each shared operation records -/

/-- An event that is no access to an address is always seen. -/
theorem note_records (e : Event) {s : State} (h : visible s e = true) : Records s [e] (s.note e) := ⟨rfl, by simp [h]⟩

theorem afterRead_records (a : Word) (s : State) : Records s [.busRead a (s.byteAt a)] (s.afterRead a) := by
  refine ⟨State.afterRead_env a s, ?_⟩
  rw [State.afterRead_events]
  by_cases h : s.holdsMemory a = true <;> simp [visible, h]

theorem memWrite_records (a : Word) (v : Byte) (s : State) : Records s [.busWrite a v] (s.memWrite a v) := by
  refine ⟨State.memWrite_env a v s, ?_⟩
  rw [State.memWrite_events]
  by_cases h : s.kindAt a = .device <;> simp [visible, h]

theorem afterRead_two_records (a : Word) (s : State) : Records s (readsTwo a s) ((s.afterRead a).afterRead (a + 1)) :=
  (afterRead_records a s).trans (afterRead_records (a + 1) (s.afterRead a))

theorem readOperand_records (o : Operand) (s : State) : Records s (readsOperand o s) (s.readOperand o).2 := by
  cases o with
  | reg r => exact .of_nil rfl rfl
  | m => exact afterRead_records s.hl s

/-- The address of M is the same for the write as for the read. -/
theorem readOperand_writeOperand_records (o : Operand) (f : Byte → Byte) (s : State) :
    Records s (updatesOperand o f s) ((s.readOperand o).2.writeOperand o (f (s.readOperand o).1)) := by
  cases o with
  | reg r => exact .of_nil (State.setReg_events r _ s) (State.setReg_env r _ s)
  | m =>
    have hhl : (s.afterRead s.hl).hl = s.hl := by simp [State.hl, State.pair]
    simp only [State.readOperand, State.writeOperand, State.memRead_fst, State.memRead_snd, hhl]
    exact (afterRead_records s.hl s).trans (memWrite_records s.hl _ _)

/-- SP moves before each write. -/
theorem push16_records (v : Word) (s : State) : Records s (writesPush v s) (s.push16 v) := by
  have hlo : s.sp - 1 - 1 = s.sp - 2 := by bv_omega
  have hfirst := (memWrite_records (s.sp - 1) (hiByte v) { s with sp := s.sp - 1 }).congr_left (s' := s) rfl rfl
  simp only [State.push16, State.memWrite_sp, hlo]
  exact hfirst.trans ((memWrite_records (s.sp - 2) (loByte v) _).congr_left rfl rfl)

/-- SP moves after each read. -/
theorem pop16_records (s : State) : Records s (readsTwo s.sp s) s.pop16.2 := by
  have hsecond := (afterRead_records (s.sp + 1) { s.afterRead s.sp with sp := s.sp + 1 }).congr_left
    (s' := s.afterRead s.sp) rfl rfl
  simp only [State.pop16, State.memRead_snd, State.afterRead_sp]
  exact (afterRead_records s.sp s).trans (hsecond.congr_right rfl rfl)

theorem callTo_records (target : Word) (s : State) : Records s (writesPush s.pc s) (s.callTo target) :=
  (push16_records s.pc s).congr_right rfl rfl

theorem popPc_records (s : State) : Records s (readsTwo s.sp s) s.popPc := (pop16_records s).congr_right rfl rfl

theorem callIf_records {k : Cond} {target : Word} {s : State} {es : List Event}
    (htaken : Cond.holds s.flags k = true → es = writesPush s.pc s) (huntaken : Cond.holds s.flags k = false → es = []) :
    Records s es (s.callIf k target) := by
  unfold State.callIf
  split <;> rename_i hk
  · rw [htaken hk]
    exact callTo_records target s
  · rw [huntaken (by simpa using hk)]
    exact .of_nil rfl rfl

theorem returnIf_records {k : Cond} {s : State} {es : List Event}
    (htaken : Cond.holds s.flags k = true → es = readsTwo s.sp s) (huntaken : Cond.holds s.flags k = false → es = []) :
    Records s es (s.returnIf k) := by
  unfold State.returnIf
  split <;> rename_i hk
  · rw [htaken hk]
    exact popPc_records s
  · rw [huntaken (by simpa using hk)]
    exact .of_nil rfl rfl

/-- Bit 6 of the image loads SOD, which the environment sees. -/
theorem applySimImage_records (v : Byte) (s : State) :
    Records s (if v.getLsbD 6 then [.serialOut (v.getLsbD 7)] else []) (s.applySimImage v) := by
  unfold State.applySimImage State.loadSod
  split
  · exact (note_records (.serialOut (v.getLsbD 7)) rfl).congr_left rfl rfl
  · exact .of_nil rfl rfl

theorem enterInterrupt_records (target : Word) (s : State) :
    Records s (writesPush s.pc s) (s.enterInterrupt target) :=
  (callTo_records target { s with ctl := { s.ctl with halted := false, ie := false, eiShadow := false } }).congr_left
    rfl rfl

/-! ### What each instruction and each interrupt entry records -/

/-- The meaning of each instruction makes the accesses of its row of the table of R55, in its order. -/
theorem exec_records {i : Instr} {s t : State} (h : exec i s = .next t) : Records s (recordedBy i s) t := by
  cases i with
  | movRM _ | lda _ | ldax _ => cases h; exact (afterRead_records _ s).congr_right (by simp) (by simp)
  | lhld a => cases h; exact (afterRead_two_records a s).congr_right rfl rfl
  | movMR _ | mviM _ | sta _ | stax _ => cases h; exact memWrite_records _ _ s
  | shld a => cases h; exact (memWrite_records a _ s).trans (memWrite_records (a + 1) _ _)
  | xthl =>
    cases h
    have hreads := afterRead_two_records s.sp s
    have hboth := (hreads.trans (memWrite_records (s.sp + 1) (s.reg .h) _)).trans (memWrite_records s.sp (s.reg .l) _)
    exact hboth.congr_right rfl rfl
  | pushRp _ | pushA => cases h; exact push16_records _ s
  | popRp _ | popA => cases h; exact (pop16_records s).congr_right (by simp) (by simp)
  | outPort p => cases h; exact note_records (.portWrite p (s.reg .a)) rfl
  | inPort p => cases h; exact (note_records (.portRead p (s.portByte p)) rfl).congr_right rfl rfl
  | add o | adc o | sub o | sbb o | ana o | xra o | ora o | cmp o =>
    cases h; exact (readOperand_records o s).congr_right rfl rfl
  | inr o => cases h; exact (readOperand_writeOperand_records o (· + 1) s).congr_right rfl rfl
  | dcr o => cases h; exact (readOperand_writeOperand_records o (· - 1) s).congr_right rfl rfl
  | call _ | rst _ => cases h; exact callTo_records _ s
  | ret => cases h; exact popPc_records s
  | cc _ | cnc _ | cp _ | cm _ | cz _ | cnz _ | cpe _ | cpo _ =>
    cases h
    refine callIf_records ?_ ?_ <;> simp +contextual [recordedBy, Cond.holds]
  | rc | rnc | rp | rm | rz | rnz | rpe | rpo =>
    cases h
    refine returnIf_records ?_ ?_ <;> simp +contextual [recordedBy, Cond.holds]
  | sim => cases h; exact applySimImage_records _ s
  | _ => cases h <;> exact .of_nil (by simp) (by simp)

theorem takeInternal_records (x : Internal) (s : State) : Records s (writesPush s.pc s) (s.takeInternal x) := by
  have hpush : writesPush (s.acknowledge x).pc (s.acknowledge x) = writesPush s.pc s := by simp [writesPush]
  rw [← hpush]
  exact (enterInterrupt_records x.vector (s.acknowledge x)).congr_left (by simp) (by simp)

/-- The record of the acknowledge comes before those of the pushes. -/
theorem takeIntr_records (bytes : IntaBytes) (target : Word) (s : State) :
    Records s ([.intAck bytes] ++ writesPush s.pc s) ((s.note (.intAck bytes)).enterInterrupt target) :=
  (note_records (.intAck bytes) rfl).trans (enterInterrupt_records target (s.note (.intAck bytes)))

/-! ### A load (20_memory.md R56) -/

theorem afterRead_setReg_changesOnly (a : Word) (r : Reg) (v : Byte) (s : State) :
    ChangesOnly [r] [.events] s ((s.afterRead a).setReg r v) :=
  changesOnly_of (fun q hq => by rw [State.setReg_reg_other (by simpa using hq), State.afterRead_reg])
    (.inr (by simp)) (.inr (by simp)) (.inr (by simp)) (.inr (by simp)) (.inr (by simp)) (.inl (by simp)) (by simp)

theorem exec_lda_of_no_memory {a : Word} {s : State} (h : s.kindAt a = .device ∨ s.kindAt a = .unpopulated) :
    ∃ t, exec (.lda a) s = .next t ∧ t.events = s.events ++ [.busRead a (t.reg .a)] ∧ ChangesOnly [.a] [.events] s t := by
  have hmem : s.holdsMemory a = false := by rcases h with h | h <;> simp [State.holdsMemory, h]
  refine ⟨(s.afterRead a).setReg .a (s.byteAt a), rfl, ?_, afterRead_setReg_changesOnly a .a _ s⟩
  rw [State.setReg_events, State.setReg_reg_same, State.afterRead_events, hmem]
  rfl

/-! ### The statements -/

/-- Settles O19, by the five things a step can be: the two that store are interrupt entry and an instruction. -/
theorem stepKeepsMemoryCanonical : Obligations.StepKeepsMemoryCanonical := by
  intro s t hwf h
  rcases step_cases h with ⟨-, rfl⟩ | ⟨-, x, -, rfl⟩ | ⟨-, -, target, -, rfl⟩ | ⟨-, -, -, rfl⟩ | ⟨-, u, hu, rfl⟩
  · exact hwf
  · exact State.enterInterrupt_wf (by simpa using hwf) x.vector
  · exact State.enterInterrupt_wf (s := s.presentInputs.note _) hwf target
  · exact hwf
  · rw [State.closeShadow_mem]
    exact exec_wf hu (by simpa using hwf)

/-- Settles O25. -/
theorem memoryChangesOnlyWhereListed : Obligations.MemoryChangesOnlyWhereListed := by
  intro i s t h hi a
  rw [exec_mem h hi]

/-- Settles O27, by the kinds of address. -/
theorem writesReachOnlyRam : Obligations.WritesReachOnlyRam :=
  fun s a v => ⟨fun h => byteAt_memWrite_of_ram h v, fun h => memWrite_of_ignored h v,
    fun _ hne h => byteAt_memWrite_of_ne hne h v, memWrite_changesOnly a v s⟩

/-- Settles O28: the table of R55 for each instruction, the pushes of each entry, and a store and a load outside memory. -/
theorem deviceAccessesAreRecorded : Obligations.DeviceAccessesAreRecorded := by
  refine ⟨fun i s t h => (exec_records h).events, fun s t x hreset hpending h => ?_, fun s a => ⟨fun hdev => ?_, ?_⟩⟩
  · rcases step_cases h with ⟨hr, -⟩ | ⟨-, y, hp, rfl⟩ | ⟨-, hp, target, -, rfl⟩ | ⟨-, hp, -, -⟩ | ⟨⟨-, hp, -⟩, -⟩
    · cases hreset.symm.trans hr
    · obtain rfl : x = .internal y := Option.some.inj (hpending.symm.trans hp)
      exact (takeInternal_records y s.presentInputs).events
    · obtain rfl : x = .intr := Option.some.inj (hpending.symm.trans hp)
      exact (takeIntr_records _ target s.presentInputs).events
    · cases hpending.symm.trans hp
    · cases hpending.symm.trans hp
  · exact congrArg Host.Outcome.next (memWrite_of_device hdev (s.reg .a))
  · exact exec_lda_of_no_memory

end Sys2Proof.Proofs
end

section
/-! PROOF. The statements about the encoding (30_encoding.md): the two round trips of decoder and encoder, the sample words, and
the unassigned bytes. The round trips rest on `decode_encode`, `decode_ok_cases` and `encode_decodeInstr`. -/

namespace Sys2Proof.Proofs

open Sys2Proof Sys2Proof.Machine

/-- The decoder's answers are exactly the well-formed instructions with the bytes after their encoding: both round trips in one
(R80, R87, R89). Each of the three lengths has its bytes from the row of its opcode byte. -/
theorem decode_ok_iff {bytes rest : List Byte} {i : Instr} :
    decode bytes = .ok (i, rest) ↔ i.wellFormed = true ∧ bytes = encode i ++ rest := by
  constructor
  · intro h
    rcases decode_ok_cases h with
      ⟨op, rfl, hlen, rfl⟩ | ⟨op, b2, rfl, hlen, rfl⟩ | ⟨op, b2, b3, rfl, hlen, rfl⟩
    all_goals
      refine ⟨decodeInstr_wellFormed _ _ _, ?_⟩
      rw [encode_decodeInstr, hlen]
      rfl
  · rintro ⟨hw, rfl⟩
    exact decode_encode i rest hw

/-- Settles O1: the round trip that starts from an instruction. -/
theorem decodeInvertsEncode : Obligations.DecodeInvertsEncode :=
  fun _ _ hw => decode_ok_iff.mpr ⟨hw, rfl⟩

/-- Settles O2: the round trip that starts from bytes. -/
theorem encodeInvertsDecode : Obligations.EncodeInvertsDecode :=
  fun _ _ _ h => decode_ok_iff.mp h

/-- Settles O3: the decoder evaluated at twenty closed words. -/
theorem decoderReadsSampleWords : Obligations.DecoderReadsSampleWords := by
  unfold Obligations.DecoderReadsSampleWords
  decide

/-- Settles O16, by the ten unassigned bytes: each is its row's encoding, and its row's meaning is the fault (R88). -/
theorem undefinedBytesFault : Obligations.UndefinedBytesFault := by
  intro s x hx
  simp only [List.mem_cons, List.not_mem_nil, or_false] at hx
  rcases hx with rfl | rfl | rfl | rfl | rfl | rfl | rfl | rfl | rfl | rfl
  all_goals exact ⟨rfl, rfl⟩

end Sys2Proof.Proofs
end

section
/-! PROOF. Data transfer (40_data_transfer.md): the frame of every instruction and the accesses that leave no event, read off the
model's own tables; what a load, a store, a push and a pop move; and the statements. -/

namespace Sys2Proof.Proofs

open Sys2Proof Sys2Proof.Machine Sys2Proof.Safety

/-! ### The frame of an instruction (10_state.md R20 to R34, 20_memory.md R55) -/

/-- The registers a pair is made of, the high-order one first (10_state.md R21). -/
def pairRegs : Pair → List Reg
  | .bc => [.b, .c]
  | .de => [.d, .e]
  | .hl => [.h, .l]
  | .sp => []

/-- The registers an instruction writes. -/
def registersWritten : Instr → List Reg
  | .movRR dst _ | .movRM dst | .mviR dst _ => [dst]
  | .inr dst | .dcr dst => operandRegs dst
  | .lxi p _ | .popRp p | .inx p | .dcx p => pairRegs p
  | .lhld _ | .xthl | .dad _ => [.h, .l]
  | .xchg => [.d, .e, .h, .l]
  | .lda _ | .ldax _ | .popA | .inPort _ | .add _ | .adc _ | .sub _ | .sbb _ | .adi _ | .aci _ | .sui _ | .sbi _ | .daa
  | .ana _ | .xra _ | .ora _ | .ani _ | .xri _ | .ori _ | .rlc | .rrc | .ral | .rar | .cma | .rim => [.a]
  | _ => []

/-- The instructions that write the control state (10_state.md R28 to R34). -/
def writesControl : Instr → Bool
  | .hlt | .di | .ei | .rim | .sim => true
  | _ => false

/-- The parts of the state an instruction may change, by the model's tables of R22, R23, R26 and R55. -/
def mayChange (i : Instr) (s : State) : Part → Bool
  | .sp => writesStackPointer i
  | .pc => writesProgramCounter i
  | .flags => decide (flagUse i ≠ .none)
  | .ctl => writesControl i
  | .memory => storesToMemory i
  | .events => !(recordedBy i s).isEmpty

/-- Those parts, in the order of `Part`. -/
def partsChanged (i : Instr) (s : State) : List Part :=
  [Part.sp, .pc, .flags, .ctl, .memory, .events].filter (mayChange i s)

theorem mayChange_of_not_mem {i : Instr} {s : State} {x : Part} (h : x ∉ partsChanged i s) : mayChange i s x = false := by
  have hall : x ∈ [Part.sp, .pc, .flags, .ctl, .memory, .events] := by cases x <;> simp
  simpa [partsChanged, List.mem_filter, hall] using h

theorem setPair_reg_of_not_mem {p : Pair} {r : Reg} (h : r ∉ pairRegs p) (v : Word) (s : State) :
    (s.setPair p v).reg r = s.reg r := by
  cases p with
  | bc | de | hl => cases r <;> simp [pairRegs] at h <;> rfl
  | sp => exact State.reg_congr rfl r

theorem accumulate_reg_of_ne {r : Reg} (h : r ≠ .a) (x : Byte × Flags) (s : State) : (s.accumulate x).reg r = s.reg r := by
  rw [State.accumulate_reg, if_neg h]

theorem rotated_reg_of_ne {r : Reg} (h : r ≠ .a) (x : Byte × Bool) (s : State) : (s.rotated x).reg r = s.reg r := by
  rw [State.rotated_reg, if_neg h]

theorem writeOperand_reg_of_not_mem {o : Operand} {r : Reg} (h : r ∉ operandRegs o) (v : Byte) (s : State) :
    (s.writeOperand o v).reg r = s.reg r := by
  cases o with
  | reg q => exact State.setReg_reg_other (by simpa [operandRegs] using h) v s
  | m => exact State.memWrite_reg s.hl v s r

@[simp] theorem callIf_regs (k : Cond) (target : Word) (s : State) : (s.callIf k target).regs = s.regs := by
  unfold State.callIf; split <;> simp

@[simp] theorem returnIf_regs (k : Cond) (s : State) : (s.returnIf k).regs = s.regs := by
  unfold State.returnIf; split <;> simp

section

variable {i : Instr} {s t : State} (h : exec i s = .next t)
include h

theorem exec_reg {r : Reg} (hr : r ∉ registersWritten i) : t.reg r = s.reg r := by
  cases i with
  | movRR _ _ | movRM _ | mviR _ _ | lda _ | ldax _ | inPort _ | cma =>
    cases h
    exact (State.setReg_reg_other (List.ne_of_not_mem_cons hr) _ _).trans (by simp)
  | add _ | adc _ | sub _ | sbb _ | adi _ | aci _ | sui _ | sbi _ | daa | ana _ | xra _ | ora _ | ani _ | xri _ | ori _
  | popA =>
    cases h
    exact (accumulate_reg_of_ne (List.ne_of_not_mem_cons hr) _ _).trans (by simp)
  | rlc | rrc | ral | rar =>
    cases h
    exact rotated_reg_of_ne (List.ne_of_not_mem_cons hr) _ s
  | rim =>
    cases h
    exact State.setReg_reg_other (List.ne_of_not_mem_cons hr) s.rimImage s
  | inr o | dcr o =>
    cases h
    exact (writeOperand_reg_of_not_mem hr _ _).trans (State.readOperand_reg o s r)
  | cmp o => cases h; exact State.readOperand_reg o s r
  | lxi _ _ | inx _ | dcx _ => cases h; exact setPair_reg_of_not_mem hr _ s
  | dad _ => cases h; exact setPair_reg_of_not_mem (p := .hl) hr _ s
  | sphl => cases h; exact setPair_reg_of_not_mem (p := .sp) hr _ s
  | lhld _ | xthl =>
    cases h
    rw [setPair_reg_of_not_mem (p := .hl) hr]
    simp
  | popRp _ =>
    cases h
    rw [setPair_reg_of_not_mem hr]
    simp
  | xchg =>
    obtain ⟨hde, hhl⟩ : r ∉ pairRegs .de ∧ r ∉ pairRegs .hl := not_or.1 (mt List.mem_append.2 hr)
    cases h
    rw [setPair_reg_of_not_mem hde, setPair_reg_of_not_mem hhl]
  | _ => cases h <;> exact State.reg_congr (by simp) r

/-- The frame of every instruction: the registers it writes and the parts its rows of the tables name. At a given instruction
both lists evaluate, so a statement's frame is this theorem at that instruction. -/
theorem exec_changesOnly : ChangesOnly (registersWritten i) (partsChanged i s) s t := by
  refine ⟨fun r hr => exec_reg h hr, fun hp => ?_, fun hp => ?_, fun hp => ?_, fun hp => ?_, fun hp a => ?_, fun hp => ?_,
    (exec_records h).env⟩
  · exact exec_sp h (mayChange_of_not_mem hp)
  · exact exec_pc h (mayChange_of_not_mem hp)
  · exact exec_flags_of_none h (by simpa [mayChange] using mayChange_of_not_mem hp)
  · refine exec_ctl h fun hi => ?_
    have hctl : writesControl i = false := mayChange_of_not_mem hp
    simp only [List.mem_cons, List.not_mem_nil, or_false] at hi
    rcases hi with rfl | rfl | rfl | rfl | rfl <;> cases hctl
  · rw [exec_mem h (mayChange_of_not_mem hp)]
  · have hnone : recordedBy i s = [] := by simpa [mayChange] using mayChange_of_not_mem hp
    rw [(exec_records h).events, hnone]
    simp

end

/-! ### Accesses that leave no event (20_memory.md R56, R58) -/

/-- The event is an access to an address. -/
def isBusAccess : Event → Bool
  | .busRead _ _ | .busWrite _ _ => true
  | _ => false

/-- The addresses read, in order. -/
def addressesRead (es : List Event) : List Word := es.filterMap fun
  | .busRead a _ => some a
  | _ => none

/-- The addresses written, in order. -/
def addressesWritten (es : List Event) : List Word := es.filterMap fun
  | .busWrite a _ => some a
  | _ => none

/-- Reads of memory and writes outside devices are not seen. -/
theorem Records.quietAccesses {s t : State} {es : List Event} (h : Records s es t) (hbus : es.all isBusAccess = true) :
    QuietAccesses (addressesRead es) (addressesWritten es) s t := by
  intro hreads hwrites
  have hunseen : es.filter (visible s) = [] := by
    refine List.filter_eq_nil_iff.2 fun e he => ?_
    cases e with
    | busRead a v =>
      have ha : s.holdsMemory a = true := hreads a (List.mem_filterMap.2 ⟨_, he, rfl⟩)
      simp [visible, ha]
    | busWrite a v =>
      have ha : s.kindAt a ≠ .device := hwrites a (List.mem_filterMap.2 ⟨_, he, rfl⟩)
      simp [visible, ha]
    | _ => cases List.all_eq_true.1 hbus _ he
  rw [h.events, hunseen, List.append_nil]

/-- The accesses are those of the instruction's row of the table of R55; the two lists evaluate at a given instruction. -/
theorem exec_quietAccesses {i : Instr} {s t : State} (h : exec i s = .next t)
    (hbus : (recordedBy i s).all isBusAccess = true) :
    QuietAccesses (addressesRead (recordedBy i s)) (addressesWritten (recordedBy i s)) s t :=
  (exec_records h).quietAccesses hbus

/-! ### Opcode patterns (30_encoding.md R81, R85) -/

theorem fields233_01 : ∀ y z : BitVec 3, fields233 0b01#2 y z = 0x40#8 + 8#8 * y.setWidth 8 + z.setWidth 8 := by decide

theorem fields233_01_to_m : ∀ y : BitVec 3, fields233 0b01#2 y 0b110#3 = 0x46#8 + 8#8 * y.setWidth 8 := by decide

theorem fields233_01_of_m : ∀ z : BitVec 3, fields233 0b01#2 0b110#3 z = 0x70#8 + z.setWidth 8 := by decide

theorem fields233_00_to_m : ∀ y : BitVec 3, fields233 0b00#2 y 0b110#3 = 0x06#8 + 8#8 * y.setWidth 8 := by decide

theorem encode_ldax_bc : encode (.ldax .bc) = [0x0A#8] := by decide

theorem encode_ldax_de : encode (.ldax .de) = [0x1A#8] := by decide

theorem isIndirect_iff (p : Pair) : p.isIndirect = true ↔ p = .bc ∨ p = .de := by
  cases p <;> simp [Pair.isIndirect]

theorem isStackable_iff (p : Pair) : p.isStackable = true ↔ p ≠ .sp := by
  cases p <;> simp [Pair.isStackable]

/-! ### One byte loaded or stored -/

theorem load_of_exec {i : Instr} {a : Word} {r : Reg} {s : State}
    (h : exec i s = .next ((s.afterRead a).setReg r (s.byteAt a))) :
    ∃ t, exec i s = .next t ∧ t.reg r = s.byteAt a ∧ ChangesOnly [r] [.events] s t ∧ QuietAccesses [a] [] s t :=
  have hrec : Records s [.busRead a (s.byteAt a)] ((s.afterRead a).setReg r (s.byteAt a)) :=
    (afterRead_records a s).congr_right (State.setReg_events r _ _) (State.setReg_env r _ _)
  ⟨_, h, State.setReg_reg_same r _ _, afterRead_setReg_changesOnly a r _ s, hrec.quietAccesses rfl⟩

theorem store_of_exec {i : Instr} {a : Word} {v : Byte} {s : State} (h : exec i s = .next (s.memWrite a v)) :
    ∃ t, exec i s = .next t ∧ MemoryAfter [(a, v)] s t ∧ ChangesOnly [] [.memory, .events] s t ∧
      QuietAccesses [] [a] s t :=
  ⟨_, h, memoryAfter_one rfl, memWrite_changesOnly a v s, (memWrite_records a v s).quietAccesses rfl⟩

/-! ### Two bytes stored -/

/-- What two writes leave depends on memory and the map alone; at different addresses neither overwrites the other. -/
theorem memoryAfter_memWrite_memWrite {a b : Word} (hab : a ≠ b) (v w : Byte) {s u t : State} (hmem : u.mem = s.mem)
    (henv : u.env = s.env) (h : t.mem = ((u.memWrite b w).memWrite a v).mem) : MemoryAfter [(a, v), (b, w)] s t := by
  refine memoryAfter_two hab fun x => ?_
  have hkind : (u.memWrite b w).kindAt a = s.kindAt a := State.kindAt_congr (by simp [henv]) a
  rw [h, State.memWrite_read, State.memWrite_read, hkind, State.kindAt_congr henv, hmem]

/-- The order of stores to different addresses does not matter. -/
theorem memoryAfter_swap {x y : Word × Byte} (hxy : x.1 ≠ y.1) {s t : State} (h : MemoryAfter [x, y] s t) :
    MemoryAfter [y, x] s t := by
  intro a
  have hnat : x.1.toNat ≠ y.1.toNat := fun e => hxy (BitVec.eq_of_toNat_eq e)
  rw [h a]
  by_cases hx : x.1.toNat = a
  · have hy : y.1.toNat ≠ a := fun e => hnat (hx.trans e.symm)
    simp [List.find?, hy]
  · simp [List.find?, hx]

/-! ### Register pairs (10_state.md R21) -/

/-- Each pair with its high-order and its low-order register. -/
def registerPairs : List (Pair × Reg × Reg) := [(.bc, .b, .c), (.de, .d, .e), (.hl, .h, .l)]

section

variable {x : Pair × Reg × Reg} (hx : x ∈ registerPairs)
include hx

theorem eq_of_mem_registerPairs : x = (.bc, .b, .c) ∨ x = (.de, .d, .e) ∨ x = (.hl, .h, .l) := by
  simpa [registerPairs] using hx

theorem pairRegs_eq_high_low : pairRegs x.1 = [x.2.1, x.2.2] := by
  rcases eq_of_mem_registerPairs hx with rfl | rfl | rfl <;> rfl

theorem pair_ne_sp : x.1 ≠ .sp := by
  rcases eq_of_mem_registerPairs hx with rfl | rfl | rfl <;> simp

theorem pair_eq_wordOf (s : State) : s.pair x.1 = wordOf (s.reg x.2.1) (s.reg x.2.2) := by
  rcases eq_of_mem_registerPairs hx with rfl | rfl | rfl <;> rfl

theorem setPair_reg_high (v : Word) (s : State) : (s.setPair x.1 v).reg x.2.1 = hiByte v := by
  rcases eq_of_mem_registerPairs hx with rfl | rfl | rfl <;> rfl

theorem setPair_reg_low (v : Word) (s : State) : (s.setPair x.1 v).reg x.2.2 = loByte v := by
  rcases eq_of_mem_registerPairs hx with rfl | rfl | rfl <;> rfl

theorem setPair_changesOnly (v : Word) (s : State) : ChangesOnly [x.2.1, x.2.2] [] s (s.setPair x.1 v) := by
  rcases eq_of_mem_registerPairs hx with rfl | rfl | rfl
  · exact exec_changesOnly (i := .lxi .bc v) rfl
  · exact exec_changesOnly (i := .lxi .de v) rfl
  · exact exec_changesOnly (i := .lxi .hl v) rfl

end

theorem exec_xchg (s : State) : exec .xchg s =
    .next { s with regs := { s.regs with d := s.regs.h, e := s.regs.l, h := s.regs.d, l := s.regs.e } } := by
  show Host.Outcome.next ((s.setPair .hl (s.pair .de)).setPair .de (s.pair .hl)) = _
  simp [State.setPair, State.pair]

/-! ### The stack (00_scope.md R11, 10_state.md R27) -/

theorem pop16_fst_high (s : State) : hiByte s.pop16.1 = (s.afterRead s.sp).byteAt (s.sp + 1) := by
  rw [State.pop16_fst_eq, hiByte_wordOf]

theorem pop16_fst_low (s : State) : loByte s.pop16.1 = s.byteAt s.sp := by
  rw [State.pop16_fst_eq, loByte_wordOf]

/-- The bytes a push of a word made of two bytes stores. -/
theorem push16_wordOf_memoryAfter (hi lo : Byte) (s : State) :
    MemoryAfter [(s.sp - 2, lo), (s.sp - 1, hi)] s (s.push16 (wordOf hi lo)) := by
  simpa only [loByte_wordOf, hiByte_wordOf] using push16_memoryAfter (s := s) (wordOf hi lo) rfl

/-- The flag byte holds the five flags, whatever its spare bits are (D13). -/
theorem ofByte_toByte (spare : BitVec 3) (f : Flags) : Flags.ofByte (f.toByte spare) = f := by
  unfold Flags.ofByte Flags.toByte
  simp only [byteOfBits_getLsbD]
  rfl

/-! ### The statements -/

/-- Settles O30: a register copied to itself is the state as it was. -/
theorem registerMovesAndImmediates : Obligations.RegisterMovesAndImmediates := by
  refine fun dst s => ⟨
    fun src => ⟨?_, _, rfl, State.setReg_reg_same dst _ s, ?_, exec_changesOnly (i := .movRR dst src) rfl⟩,
    fun v => ⟨?_, _, rfl, State.setReg_reg_same dst v s, exec_changesOnly (i := .mviR dst v) rfl⟩⟩
  · exact congrArg ([·]) (fields233_01 dst.code src.code)
  · rintro rfl
    exact State.setReg_reg_self dst s
  · exact congrArg ([·, v]) (fields233_00_to_m dst.code)

/-- Settles O31: the address is taken from H and L before either is written. -/
theorem movMemoryToRegister : Obligations.MovMemoryToRegister :=
  fun dst _ => ⟨congrArg ([·]) (fields233_01_to_m dst.code), load_of_exec rfl⟩

/-- Settles O32: each is one store at HL. -/
theorem storesToM : Obligations.StoresToM := by
  rintro s a rfl
  exact ⟨fun r => ⟨congrArg ([·]) (fields233_01_of_m r.code), store_of_exec rfl⟩, fun _ => ⟨rfl, store_of_exec rfl⟩⟩

/-- Settles O33: each is one load into A. -/
theorem loadsAccumulator : Obligations.LoadsAccumulator :=
  fun _ => ⟨fun _ => ⟨rfl, load_of_exec rfl⟩,
    List.forall_mem_cons.2
      ⟨⟨encode_ldax_bc, load_of_exec rfl⟩, List.forall_mem_singleton.2 ⟨encode_ldax_de, load_of_exec rfl⟩⟩,
    isIndirect_iff⟩

/-- Settles O34: the three pairs of registers, then SP. -/
theorem lxiLoadsPair : Obligations.LxiLoadsPair :=
  fun v s => ⟨fun _ hx => ⟨_, rfl, setPair_reg_high hx v s, setPair_reg_low hx v s, setPair_changesOnly hx v s⟩,
    _, rfl, rfl, exec_changesOnly (i := .lxi .sp v) rfl⟩

/-- Settles O35: the two addresses differ, so SHLD's second store keeps the first. -/
theorem hlDirectTransfers : Obligations.HlDirectTransfers := by
  intro a s
  have hne : a + 1 ≠ a := by bv_omega
  refine ⟨⟨rfl, rfl⟩, ⟨_, rfl, ?_, ?_, exec_changesOnly (i := .lhld a) rfl, exec_quietAccesses (i := .lhld a) rfl rfl⟩,
    ⟨_, rfl, ?_, exec_changesOnly (i := .shld a) rfl, exec_quietAccesses (i := .shld a) rfl rfl⟩⟩
  · exact loByte_wordOf ((s.afterRead a).byteAt (a + 1)) (s.byteAt a)
  · exact hiByte_wordOf ((s.afterRead a).byteAt (a + 1)) (s.byteAt a)
  · exact memoryAfter_swap hne (memoryAfter_memWrite_memWrite hne _ _ rfl rfl rfl)

/-- Settles O36: each is one store of A. -/
theorem storesAccumulator : Obligations.StoresAccumulator :=
  fun _ => ⟨fun _ => store_of_exec rfl,
    List.forall_mem_cons.2 ⟨store_of_exec rfl, List.forall_mem_singleton.2 (store_of_exec rfl)⟩, isIndirect_iff⟩

/-- Settles O37: XCHG is a swap of two pairs of fields, so the second undoes the first. -/
theorem hlMovesToDeSpPc : Obligations.HlMovesToDeSpPc :=
  fun s => ⟨⟨rfl, rfl, rfl⟩,
    ⟨_, exec_xchg s, rfl, rfl, rfl, rfl, exec_changesOnly (exec_xchg s), exec_xchg _⟩,
    ⟨_, rfl, rfl, exec_changesOnly (i := .sphl) rfl⟩, ⟨_, rfl, rfl, exec_changesOnly (i := .pchl) rfl⟩⟩

/-- Settles O38: the bytes come from the reads, which are before the writes. -/
theorem xthlExchangesTopOfStack : Obligations.XthlExchangesTopOfStack := by
  intro s
  have hne : s.sp ≠ s.sp + 1 := by bv_omega
  refine ⟨_, rfl, ?_, ?_, ?_, exec_changesOnly (i := .xthl) rfl, exec_quietAccesses (i := .xthl) rfl rfl⟩
  · exact loByte_wordOf ((s.afterRead s.sp).byteAt (s.sp + 1)) (s.byteAt s.sp)
  · exact hiByte_wordOf ((s.afterRead s.sp).byteAt (s.sp + 1)) (s.byteAt s.sp)
  · exact memoryAfter_memWrite_memWrite (u := (s.afterRead s.sp).afterRead (s.sp + 1)) hne _ _ (by simp) (by simp)
      (State.setPair_mem .hl _ _)

/-- Settles O39: a push of the pair; the low-order byte of PUSH A is the flag byte with the spare bits drawn (log 13). -/
theorem pushStoresPair : Obligations.PushStoresPair := by
  refine fun s => ⟨fun x hx => ⟨_, rfl, State.push16_sp _ s, ?_, exec_changesOnly (i := .pushRp x.1) rfl,
      exec_quietAccesses (i := .pushRp x.1) rfl rfl⟩,
    ⟨_, s.flags.toByte (Config.pswSpareBits s.history), rfl, State.push16_sp _ s, ?_⟩, isStackable_iff⟩
  · rw [pair_eq_wordOf hx s]
    exact push16_wordOf_memoryAfter _ _ s
  · have hflags := ofByte_toByte (Config.pswSpareBits s.history) s.flags
    exact ⟨congrArg Flags.s hflags, congrArg Flags.z hflags, congrArg Flags.ac hflags, congrArg Flags.p hflags,
      congrArg Flags.cy hflags, push16_wordOf_memoryAfter _ _ s, exec_changesOnly (i := .pushA) rfl,
      exec_quietAccesses (i := .pushA) rfl rfl⟩

/-- Settles O40: both bytes are those of the word popped. -/
theorem popLoadsPair : Obligations.PopLoadsPair := by
  refine fun s => ⟨fun x hx => ⟨_, rfl, ?_, ?_, ?_, ?_, exec_quietAccesses (i := .popRp x.1) rfl rfl⟩,
    ⟨_, rfl, State.pop16_sp s, pop16_fst_high s, ?_, exec_changesOnly (i := .popA) rfl,
      exec_quietAccesses (i := .popA) rfl rfl⟩, isStackable_iff⟩
  · exact (setPair_sp_of_ne (pair_ne_sp hx) _ _).trans (State.pop16_sp s)
  · exact (setPair_reg_low hx _ _).trans (pop16_fst_low s)
  · exact (setPair_reg_high hx _ _).trans (pop16_fst_high s)
  · rw [← pairRegs_eq_high_low hx]
    exact exec_changesOnly (i := .popRp x.1) rfl
  · exact congrArg Flags.ofByte (pop16_fst_low s)

/-- Settles O41: A holds the byte that is in the record. -/
theorem portTransfers : Obligations.PortTransfers :=
  fun port _ => ⟨⟨rfl, rfl⟩, rfl, _, rfl, rfl, rfl, exec_changesOnly (i := .inPort port) rfl⟩

end Sys2Proof.Proofs
end

section
/-! PROOF. Arithmetic (41_arithmetic.md): what the result-and-flags computations answer as numbers, the shapes the instructions
share, and the statements. -/

namespace Sys2Proof.Proofs

open Sys2Proof Sys2Proof.Machine Sys2Proof.Safety

/-! ### Results and flags as numbers (41_arithmetic.md R140, R141, R151, R153) -/

theorem add8_fst_toNat (x y : Byte) (c : Bool) : (add8 x y c).1.toNat = (x.toNat + y.toNat + c.toNat) % 256 := by
  simp [add8]

theorem add8_cy_iff (x y : Byte) (c : Bool) : (add8 x y c).2.cy = true ↔ 256 ≤ x.toNat + y.toNat + c.toNat :=
  decide_eq_true_iff

theorem add8_ac_iff (x y : Byte) (c : Bool) :
    (add8 x y c).2.ac = true ↔ 16 ≤ x.toNat % 16 + y.toNat % 16 + c.toNat :=
  decide_eq_true_iff

theorem sub8_fst_toNat (x y : Byte) (b : Bool) :
    ((sub8 x y b).1.toNat : Int) = (x.toNat - y.toNat - b.toNat : Int) % 256 := by
  show ((BitVec.ofInt 8 _).toNat : Int) = _
  rw [BitVec.toNat_ofInt]
  omega

theorem toNat_add_one (v : Byte) : (v + 1).toNat = (v.toNat + 1) % 256 := BitVec.toNat_add v 1

theorem toNat_sub_one (v : Byte) : (v - 1).toNat = (v.toNat + 255) % 256 := by bv_omega

theorem inc8_ac_iff (v : Byte) (f : Flags) : (inc8 v f).2.ac = true ↔ v.toNat % 16 = 15 := decide_eq_true_iff

theorem dec8_ac_iff (v : Byte) (f : Flags) : (dec8 v f).2.ac = true ↔ v.toNat % 16 ≠ 0 := decide_eq_true_iff

/-! ### A result put in A (R140, R141) -/

/-- Reading an operand can leave events; the rest of the frame is A and the flags. -/
theorem accumulate_readOperand_changesOnly (o : Operand) (x : Byte × Flags) (s : State) :
    ChangesOnly [.a] [.flags, .events] s ((s.readOperand o).2.accumulate x) :=
  changesOnly_of (fun r hr => (accumulate_reg_of_ne (List.ne_of_not_mem_cons hr) x _).trans (State.readOperand_reg o s r))
    (.inr (State.readOperand_sp o s)) (.inr (State.readOperand_pc o s)) (.inl (by simp)) (.inr (State.readOperand_ctl o s))
    (.inr (State.readOperand_mem o s)) (.inl (by simp)) (State.readOperand_env o s)

theorem accumulate_readOperand_quietAccesses (o : Operand) (x : Byte × Flags) (s : State) :
    QuietAccesses (operandReads o s) [] s ((s.readOperand o).2.accumulate x) := by
  intro hreads _
  rw [State.accumulate_events, State.readOperand_snd hreads]

/-- An immediate operand is the case of a register for `o`: neither is an access. -/
theorem addsToA_of_exec {i : Instr} {o : Operand} {v : Byte} {c : Bool} {s : State}
    (h : exec i s = .next ((s.readOperand o).2.accumulate (add8 (s.reg .a) v c))) :
    AddsToA i v c.toNat (operandReads o s) s :=
  ⟨_, h, add8_fst_toNat _ v c, add8_cy_iff _ v c, add8_ac_iff _ v c, signZeroParityOf_of rfl rfl rfl,
    accumulate_readOperand_changesOnly o _ s, accumulate_readOperand_quietAccesses o _ s⟩

theorem subtractsFromA_of_exec {i : Instr} {o : Operand} {v : Byte} {b : Bool} {s : State}
    (h : exec i s = .next ((s.readOperand o).2.accumulate (sub8 (s.reg .a) v b))) :
    SubtractsFromA i v b.toNat (operandReads o s) s :=
  ⟨_, h, sub8_fst_toNat _ v b, sub8_flags _ v b, accumulate_readOperand_changesOnly o _ s,
    accumulate_readOperand_quietAccesses o _ s⟩

/-! ### An operand changed and written back (R151, R153) -/

theorem setReg_withFlags_of_exec {i : Instr} {r : Reg} {x : Byte × Flags} {s : State}
    (h : exec i s = .next { s.setReg r x.1 with flags := x.2 }) :
    ∃ t, exec i s = .next t ∧ t.reg r = x.1 ∧ t.flags = x.2 :=
  ⟨_, h, (State.reg_congr rfl r).trans (State.setReg_reg_same r x.1 s), rfl⟩

/-- The read of M before its write leaves memory and the map as they were. -/
theorem memoryAfter_readOperand_m (v : Byte) {s t : State}
    (h : t.mem = ((s.readOperand .m).2.writeOperand .m v).mem) : MemoryAfter [(s.hl, v)] s t := by
  have hhl : (s.afterRead s.hl).hl = s.hl := by simp [State.hl, State.pair]
  have hmem : t.mem = ((s.afterRead s.hl).memWrite s.hl v).mem := by
    rw [h]
    simp only [State.readOperand, State.writeOperand, State.memRead_snd, hhl]
  have hafter := memoryAfter_one hmem
  simpa only [MemoryAfter, State.kindAt_congr (State.afterRead_env s.hl s), State.afterRead_mem] using hafter

/-! ### Register pairs as numbers (R146, R152, R154) -/

theorem high_low_toNat {x : Pair × Reg × Reg} (hx : x ∈ registerPairs) (s : State) :
    256 * (s.reg x.2.1).toNat + (s.reg x.2.2).toNat = (s.pair x.1).toNat := by
  rw [pair_eq_wordOf hx, wordOf_toNat]

theorem setPair_add_one_toNat (p : Pair) (s : State) :
    ((s.setPair p (s.pair p + 1)).pair p).toNat = ((s.pair p).toNat + 1) % 65536 := by
  rw [State.setPair_pair_same]
  exact BitVec.toNat_add (s.pair p) 1

theorem setPair_sub_one_toNat (p : Pair) (s : State) :
    ((s.setPair p (s.pair p - 1)).pair p).toNat = ((s.pair p).toNat + 65535) % 65536 := by
  rw [State.setPair_pair_same]
  bv_omega

/-- A pair written back with its old value is as it was. -/
theorem setPair_setPair_self (p : Pair) (v : Word) (s : State) : (s.setPair p v).setPair p (s.pair p) = s := by
  cases p <;> simp [State.setPair, State.pair]

theorem exec_dcx_setPair_add_one (p : Pair) (s : State) : exec (.dcx p) (s.setPair p (s.pair p + 1)) = .next s := by
  show Host.Outcome.next ((s.setPair p _).setPair p ((s.setPair p _).pair p - 1)) = _
  rw [State.setPair_pair_same, BitVec.add_sub_cancel, setPair_setPair_self]

theorem exec_inx_setPair_sub_one (p : Pair) (s : State) : exec (.inx p) (s.setPair p (s.pair p - 1)) = .next s := by
  show Host.Outcome.next ((s.setPair p _).setPair p ((s.setPair p _).pair p + 1)) = _
  rw [State.setPair_pair_same, BitVec.sub_add_cancel, setPair_setPair_self]

/-- DAD of a pair whose value as a number is `n`. -/
theorem dad_of_pair_toNat {p : Pair} {n : Nat} {s : State} (hn : (s.pair p).toNat = n) :
    ∃ t, exec (.dad p) s = .next t ∧
      256 * (t.reg .h).toNat + (t.reg .l).toNat = (256 * (s.reg .h).toNat + (s.reg .l).toNat + n) % 65536 ∧
      t.flags = { s.flags with cy := decide (65536 ≤ 256 * (s.reg .h).toNat + (s.reg .l).toNat + n) } ∧
      ChangesOnly [.h, .l] [.flags] s t := by
  have hhl : s.hl.toNat = 256 * (s.reg .h).toNat + (s.reg .l).toNat := wordOf_toNat _ _
  refine ⟨_, rfl, ?_, ?_, exec_changesOnly (i := .dad p) rfl⟩
  · show 256 * (hiByte (add16 s.hl (s.pair p)).1).toNat + (loByte (add16 s.hl (s.pair p)).1).toNat = _
    rw [← wordOf_toNat, wordOf_hiByte_loByte, ← hhl, ← hn]
    exact BitVec.toNat_ofNat _ 16
  · rw [← hhl, ← hn]
    rfl

/-! ### Decimal adjust (R155) -/

/-- What DAA adds for the low digit. -/
def lowCorrection (a : Byte) (f : Flags) : Nat := if 9 < a.toNat % 16 ∨ f.ac = true then 6 else 0

/-- R155 looks at the digits of A before either correction. The low digit's correction carries into the high one only where that
digit is above 9, for a digit up to 9 with AC set ends at 15 or less. -/
theorem decimalAdjust_cy_iff (a : Byte) (f : Flags) :
    (decimalAdjust a f).2.cy = true ↔ 9 < (a.toNat + lowCorrection a f) / 16 ∨ f.cy = true := by
  have hcy : (decimalAdjust a f).2.cy = true ↔
      (9 < a.toNat / 16 ∨ 9 ≤ a.toNat / 16 ∧ 9 < a.toNat % 16) ∨ f.cy = true := by
    simp [decimalAdjust, or_right_comm]
  rw [hcy, lowCorrection]
  refine or_congr_left ?_
  split_ifs <;> omega

theorem decimalAdjust_ac_iff (a : Byte) (f : Flags) :
    (decimalAdjust a f).2.ac = true ↔ 16 ≤ a.toNat % 16 + lowCorrection a f := by
  have hac : (decimalAdjust a f).2.ac = true ↔ (9 < a.toNat % 16 ∨ f.ac = true) ∧ 15 < a.toNat % 16 + 6 := by
    simp [decimalAdjust]
  rw [hac, lowCorrection]
  split_ifs <;> omega

theorem decimalAdjust_fst_toNat (a : Byte) (f : Flags) : (decimalAdjust a f).1.toNat =
    (a.toNat + lowCorrection a f + if (decimalAdjust a f).2.cy = true then 96 else 0) % 256 := by
  simp [decimalAdjust, lowCorrection, Nat.add_assoc]

/-- The binary sum of two BCD bytes and a carry, with 6 added where the low digits sum to 10 or more and 60H where the high ones
with the carry from the low do: each digit is that of the decimal sum. -/
theorem adjusted_bcd_sum {x1 x0 y1 y0 c : Nat} (hx1 : x1 ≤ 9) (hx0 : x0 ≤ 9) (hy1 : y1 ≤ 9) (hy0 : y0 ≤ 9)
    (hc : c < 2) :
    ((16 * x1 + x0 + (16 * y1 + y0) + c) % 256 + (if 10 ≤ x0 + y0 + c then 6 else 0) +
      if 10 ≤ x1 + y1 + (x0 + y0 + c) / 10 then 96 else 0) % 256 =
    16 * ((x1 + y1 + (x0 + y0 + c) / 10) % 10) + (x0 + y0 + c) % 10 := by
  split_ifs <;> omega

/-! ### The statements -/

/-- Settles O42: each is `add8` of A and its operand. -/
theorem additionsAddWithFlags : Obligations.AdditionsAddWithFlags := by
  intro o v s
  rw [← State.readOperand_fst]
  exact ⟨addsToA_of_exec (c := false) rfl, addsToA_of_exec rfl, addsToA_of_exec (o := .reg .a) (c := false) rfl,
    addsToA_of_exec (o := .reg .a) rfl⟩

/-- Settles O43: each is `sub8` of A and its operand. -/
theorem subtractionsSubtractWithFlags : Obligations.SubtractionsSubtractWithFlags := by
  intro o v s
  rw [← State.readOperand_fst]
  exact ⟨subtractsFromA_of_exec (b := false) rfl, subtractsFromA_of_exec rfl,
    subtractsFromA_of_exec (o := .reg .a) (b := false) rfl, subtractsFromA_of_exec (o := .reg .a) rfl⟩

/-- Settles O45: the flags are those of `inc8` and `dec8`, wherever the result goes. -/
theorem incrementAndDecrement : Obligations.IncrementAndDecrement := by
  refine fun s => ⟨fun r => ⟨?_, ?_⟩, ?_⟩
  · obtain ⟨t, ht, hreg, hflags⟩ :=
      setReg_withFlags_of_exec (i := .inr (.reg r)) (x := inc8 (s.reg r) s.flags) rfl
    refine ⟨t, ht, ?_⟩
    rw [hreg, hflags]
    exact ⟨toNat_add_one _, signZeroParityOf_of rfl rfl rfl, inc8_ac_iff _ s.flags, rfl, exec_changesOnly ht⟩
  · obtain ⟨t, ht, hreg, hflags⟩ :=
      setReg_withFlags_of_exec (i := .dcr (.reg r)) (x := dec8 (s.reg r) s.flags) rfl
    refine ⟨t, ht, ?_⟩
    rw [hreg, hflags]
    exact ⟨toNat_sub_one _, signZeroParityOf_of rfl rfl rfl, dec8_ac_iff _ s.flags, rfl, exec_changesOnly ht⟩
  · rintro a v rfl rfl
    exact ⟨
      ⟨_, rfl, memoryAfter_readOperand_m _ rfl, signZeroParityOf_of rfl rfl rfl, inc8_ac_iff _ s.flags, rfl,
        exec_changesOnly (i := .inr .m) rfl, exec_quietAccesses (i := .inr .m) rfl rfl⟩,
      ⟨_, rfl, memoryAfter_readOperand_m _ rfl, signZeroParityOf_of rfl rfl rfl, dec8_ac_iff _ s.flags, rfl,
        exec_changesOnly (i := .dcr .m) rfl, exec_quietAccesses (i := .dcr .m) rfl rfl⟩⟩

/-- Settles O46: a pair is written whole, so adding 1 and subtracting 1 undo each other. -/
theorem pairIncrementAndDecrement : Obligations.PairIncrementAndDecrement := by
  refine fun s => ⟨fun x hx => ⟨
      ⟨_, rfl, ?_, setPair_changesOnly hx _ s, exec_dcx_setPair_add_one x.1 s⟩,
      ⟨_, rfl, ?_, setPair_changesOnly hx _ s, exec_inx_setPair_sub_one x.1 s⟩⟩,
    ⟨_, rfl, setPair_add_one_toNat .sp s, exec_changesOnly (i := .inx .sp) rfl, exec_dcx_setPair_add_one .sp s⟩,
    ⟨_, rfl, setPair_sub_one_toNat .sp s, exec_changesOnly (i := .dcx .sp) rfl, exec_inx_setPair_sub_one .sp s⟩⟩
  · rw [high_low_toNat hx, high_low_toNat hx]
    exact setPair_add_one_toNat x.1 s
  · rw [high_low_toNat hx, high_low_toNat hx]
    exact setPair_sub_one_toNat x.1 s

/-- Settles O47: the four pairs, each with its number. -/
theorem dadAddsToHl : Obligations.DadAddsToHl := by
  intro s x hx
  simp only [List.mem_cons, List.not_mem_nil, or_false] at hx
  rcases hx with rfl | rfl | rfl | rfl
  · exact dad_of_pair_toNat (wordOf_toNat _ _)
  · exact dad_of_pair_toNat (wordOf_toNat _ _)
  · exact dad_of_pair_toNat (wordOf_toNat _ _)
  · exact dad_of_pair_toNat rfl

/-- Settles O48: the corrections of R155 are those of the sequential reading. -/
theorem daaAdjustsSequentially : Obligations.DaaAdjustsSequentially := by
  rintro s _ _ rfl rfl
  have hcy := decimalAdjust_cy_iff (s.reg .a) s.flags
  refine ⟨_, rfl, ?_, hcy, ?_, signZeroParityOf_of rfl rfl rfl, exec_changesOnly (i := .daa) rfl⟩
  · exact (decimalAdjust_fst_toNat _ s.flags).trans (by simp only [hcy]; rfl)
  · rw [Nat.add_sub_cancel_left]
    exact decimalAdjust_ac_iff _ s.flags

/-- Settles O49: DAA's two corrections turn the carries at 16 of the two digits into carries at 10. -/
theorem daaAfterAdditionIsDecimal : Obligations.DaaAfterAdditionIsDecimal := by
  intro s x1 x0 y1 y0 hx1 hx0 hy1 hy0 ha
  obtain ⟨-, -, -, u, hu, hua, hucy, huac, -⟩ := additionsAddWithFlags .m (BitVec.ofNat 8 (16 * y1 + y0)) s
  obtain ⟨t, ht, hta, htcy, -⟩ := daaAdjustsSequentially u _ _ rfl rfl
  have hy : (BitVec.ofNat 8 (16 * y1 + y0)).toNat = 16 * y1 + y0 := by
    rw [BitVec.toNat_ofNat]; omega
  have hc := s.flags.cy.toNat_lt
  refine ⟨t, by simp only [execAll, hu, ht], ?_⟩
  rw [ha, hy] at hua hucy huac
  have hlow : (9 < (u.reg .a).toNat % 16 ∨ u.flags.ac = true) ↔ 10 ≤ x0 + y0 + s.flags.cy.toNat := by
    rw [huac, hua]
    omega
  simp only [hlow] at hta htcy
  have hhigh : (9 < ((u.reg .a).toNat + if 10 ≤ x0 + y0 + s.flags.cy.toNat then 6 else 0) / 16 ∨ u.flags.cy = true) ↔
      10 ≤ x1 + y1 + (x0 + y0 + s.flags.cy.toNat) / 10 := by
    rw [hucy, hua]
    split_ifs <;> omega
  simp only [hhigh] at hta htcy
  have hcarry : t.flags.cy.toNat = (x1 + y1 + (x0 + y0 + s.flags.cy.toNat) / 10) / 10 := by
    cases hcase : t.flags.cy <;> simp [hcase] at htcy ⊢ <;> omega
  rw [hcarry, hta, hua, adjusted_bcd_sum hx1 hx0 hy1 hy0 hc]
  omega

end Sys2Proof.Proofs
end

section
/-! PROOF. Branching (42_branching.md): the three shapes of a transfer, taken or untaken, and the statements. -/

namespace Sys2Proof.Proofs

open Sys2Proof Sys2Proof.Machine Sys2Proof.Safety

/-! ### The frame of a call and of a return (42_branching.md R180, R189) -/

/-- A frame that names more parts claims less. -/
theorem changesOnly_mono {rs : List Reg} {ps qs : List Part} {s t : State} (hsub : ps ⊆ qs) (h : ChangesOnly rs ps s t) :
    ChangesOnly rs qs s t := by
  obtain ⟨hreg, hsp, hpc, hflags, hctl, hmem, hevents, henv⟩ := h
  have hnot {x : Part} : x ∉ qs → x ∉ ps := mt (@hsub x)
  exact ⟨hreg, hsp ∘ hnot, hpc ∘ hnot, hflags ∘ hnot, hctl ∘ hnot, hmem ∘ hnot, hevents ∘ hnot, henv⟩

theorem callTo_changesOnly (target : Word) (s : State) :
    ChangesOnly [] [.pc, .sp, .memory, .events] s (s.callTo target) :=
  changesOnly_mono (ps := [.sp, .pc, .memory, .events]) (by decide) (exec_changesOnly (i := .call target) rfl)

theorem popPc_changesOnly (s : State) : ChangesOnly [] [.pc, .sp, .events] s s.popPc :=
  changesOnly_mono (ps := [.sp, .pc, .events]) (by decide) (exec_changesOnly (i := .ret) rfl)

/-! ### The three transfers, taken and untaken (R171 to R197)

At a given instruction the condition of R170 evaluates to the flag, or its complement, that the statement names. -/

section

variable {taken : Bool} {i : Instr} {target : Word} {s : State}

/-- An untaken jump is a jump to the next instruction, where PC is already. -/
theorem jumpsIf_of_exec (h : exec i s = .next (if taken then { s with pc := target } else s)) :
    JumpsIf taken i target s := by
  have hpc : (if taken then { s with pc := target } else s) = { s with pc := if taken then target else s.pc } := by
    cases taken <;> rfl
  exact ⟨_, h.trans (congrArg _ hpc), rfl, exec_changesOnly (i := .jmp _) rfl⟩

theorem callsIf_of_exec (h : exec i s = .next (if taken then s.callTo target else s)) : CallsIf taken i target s := by
  cases taken with
  | false => exact ⟨s, h, fun _ => rfl, nofun⟩
  | true =>
    exact ⟨s.callTo target, h, nofun, fun _ =>
      ⟨State.callTo_pc target s, State.callTo_sp target s, push16_memoryAfter s.pc (State.callTo_mem target s),
        callTo_changesOnly target s, (callTo_records target s).quietAccesses rfl⟩⟩

theorem returnsIf_of_exec (h : exec i s = .next (if taken then s.popPc else s)) : ReturnsIf taken i s := by
  cases taken with
  | false => exact ⟨s, h, fun _ => rfl, nofun⟩
  | true =>
    exact ⟨s.popPc, h, nofun, fun _ =>
      ⟨pop16_fst_low s, pop16_fst_high s, State.popPc_sp s, popPc_changesOnly s,
        (popPc_records s).quietAccesses rfl⟩⟩

end

/-! ### The statements -/

/-- Settles O50, by the nine jumps. -/
theorem jumps : Obligations.Jumps := by
  intro a s x hx
  simp only [List.mem_cons, List.not_mem_nil, or_false] at hx
  rcases hx with rfl | rfl | rfl | rfl | rfl | rfl | rfl | rfl | rfl
  all_goals exact ⟨rfl, jumpsIf_of_exec rfl⟩

/-- Settles O51, by the nine calls. -/
theorem calls : Obligations.Calls :=
  fun _ _ => ⟨callsIf_of_exec rfl, callsIf_of_exec rfl, callsIf_of_exec rfl, callsIf_of_exec rfl, callsIf_of_exec rfl,
    callsIf_of_exec rfl, callsIf_of_exec rfl, callsIf_of_exec rfl, callsIf_of_exec rfl⟩

/-- Settles O52, by the eight restarts: each makes the transfer of CALL, and `restartAddress` evaluates to its address. -/
theorem restarts : Obligations.Restarts := by
  intro s x hx
  simp only [List.mem_cons, List.not_mem_nil, or_false] at hx
  rcases hx with rfl | rfl | rfl | rfl | rfl | rfl | rfl | rfl
  all_goals exact ⟨callsIf_of_exec rfl, rfl⟩

/-- Settles O53, by the nine returns. -/
theorem returns : Obligations.Returns :=
  fun _ => ⟨returnsIf_of_exec rfl, returnsIf_of_exec rfl, returnsIf_of_exec rfl, returnsIf_of_exec rfl,
    returnsIf_of_exec rfl, returnsIf_of_exec rfl, returnsIf_of_exec rfl, returnsIf_of_exec rfl, returnsIf_of_exec rfl⟩

end Sys2Proof.Proofs
end

section
/-! PROOF. Logic (43_logical.md): the shapes the comparisons, the bitwise operations and the rotates share, what a rotate answers
as a number and bit by bit, and the statements. -/

namespace Sys2Proof.Proofs

open Sys2Proof Sys2Proof.Machine Sys2Proof.Safety

/-! ### The flags of a comparison (43_logical.md R210) -/

theorem sub8_false_fst (x y : Byte) : (sub8 x y false).1 = x - y := by
  have h := sub8_fst_toNat x y false
  rw [Bool.toNat_false] at h
  bv_omega

theorem compareFlags_z_iff (x y : Byte) : (sub8 x y false).2.z = true ↔ x = y := by
  show ((sub8 x y false).1 == 0) = true ↔ x = y
  rw [beq_iff_eq, sub8_false_fst, sub_eq_zero]

theorem compareFlags_cy_iff (x y : Byte) : (sub8 x y false).2.cy = true ↔ x.toNat < y.toNat := decide_eq_true_iff

/-- An immediate operand is the case of a register for `o`, as in `addsToA_of_exec`. -/
theorem comparesWithA_of_exec {i : Instr} {o : Operand} {v : Byte} {s : State}
    (h : exec i s = .next { (s.readOperand o).2 with flags := (sub8 (s.reg .a) v false).2 }) :
    ComparesWithA i v (operandReads o s) s := by
  refine ⟨_, h, compareFlags_cy_iff _ v, compareFlags_z_iff _ v, ?_, ?_, ?_⟩
  · rw [← sub8_false_fst]
    exact sub8_flags _ v false
  · exact changesOnly_of (fun r _ => State.readOperand_reg o s r) (.inr (State.readOperand_sp o s))
      (.inr (State.readOperand_pc o s)) (.inl (by simp)) (.inr (State.readOperand_ctl o s))
      (.inr (State.readOperand_mem o s)) (.inl (by simp)) (State.readOperand_env o s)
  · intro hreads _
    show (s.readOperand o).2.events = s.events
    rw [State.readOperand_snd hreads]

/-! ### The bitwise operations (R212 to R217) -/

/-- AND sets AC and the others reset it; the rest of the flags is one computation. -/
theorem combinesWithA_of_exec {i : Instr} {o : Operand} {f : Bool → Bool → Bool} {v r : Byte} {ac : Bool} {s : State}
    (h : exec i s = .next ((s.readOperand o).2.accumulate (r, { s.flags.setSZP r with cy := false, ac := ac })))
    (hbits : ∀ k, r.getLsbD k = f ((s.reg .a).getLsbD k) (v.getLsbD k)) :
    CombinesWithA i f v ac (operandReads o s) s :=
  ⟨_, h, fun k _ => hbits k, signZeroParityOf_of rfl rfl rfl, rfl, rfl, accumulate_readOperand_changesOnly o _ s,
    accumulate_readOperand_quietAccesses o _ s⟩

/-! ### A rotate as a number (R218 to R221) -/

theorem append_toNat {m n : Nat} (hi : BitVec m) (lo : BitVec n) : (hi ++ lo).toNat = 2 ^ n * hi.toNat + lo.toNat := by
  rw [BitVec.toNat_append, Nat.shiftLeft_eq, Nat.mul_comm, ← Nat.two_pow_add_eq_or_of_lt lo.isLt]

theorem getLsbD_seven (x : Byte) : x.getLsbD 7 = decide (128 ≤ x.toNat) := BitVec.msb_eq_decide x

theorem getLsbD_zero (x : Byte) : x.getLsbD 0 = decide (x.toNat % 2 = 1) := Nat.testBit_zero x.toNat

theorem lowSeven_toNat (x : Byte) : (x.extractLsb' 0 7).toNat = x.toNat % 128 := BitVec.extractLsb'_toNat 0 7 x

theorem highSeven_toNat (x : Byte) : (x.extractLsb' 1 7).toNat = x.toNat / 2 := by
  have h := x.isLt
  rw [BitVec.extractLsb'_toNat, Nat.shiftRight_eq_div_pow]
  omega

theorem rotateLeft_toNat (x : Byte) : (rotateLeft x).1.toNat = (2 * x.toNat + x.toNat / 128) % 256 := by
  have h := x.isLt
  have htop : (x.extractLsb' 7 1).toNat = x.toNat / 128 := by
    rw [BitVec.extractLsb'_toNat, Nat.shiftRight_eq_div_pow]
    omega
  rw [rotateLeft, append_toNat, lowSeven_toNat, htop]
  omega

theorem rotateRight_toNat (x : Byte) : (rotateRight x).1.toNat = x.toNat / 2 + 128 * (x.toNat % 2) := by
  have hbottom : (x.extractLsb' 0 1).toNat = x.toNat % 2 := BitVec.extractLsb'_toNat 0 1 x
  rw [rotateRight, append_toNat, highSeven_toNat, hbottom]
  omega

theorem rotateLeftThrough_toNat (x : Byte) (c : Bool) :
    (rotateLeftThrough x c).1.toNat = (2 * x.toNat + c.toNat) % 256 := by
  have h := c.toNat_lt
  rw [rotateLeftThrough, append_toNat, lowSeven_toNat, BitVec.toNat_ofBool]
  omega

theorem rotateRightThrough_toNat (x : Byte) (c : Bool) :
    (rotateRightThrough x c).1.toNat = x.toNat / 2 + 128 * c.toNat := by
  rw [rotateRightThrough, append_toNat, highSeven_toNat, BitVec.toNat_ofBool]
  omega

theorem rotated_changesOnly (x : Byte × Bool) (s : State) : ChangesOnly [.a] [.flags] s (s.rotated x) :=
  changesOnly_of (fun _ hr => rotated_reg_of_ne (List.ne_of_not_mem_cons hr) x s) (.inr (State.rotated_sp x s))
    (.inr (State.rotated_pc x s)) (.inl (by simp)) (.inr (State.rotated_ctl x s)) (.inr (State.rotated_mem x s))
    (.inr (State.rotated_events x s)) (State.rotated_env x s)

theorem rotatesA_of_exec {i : Instr} {x : Byte × Bool} {a : Nat} {c : Bool} {s : State}
    (h : exec i s = .next (s.rotated x)) (ha : x.1.toNat = a) (hc : x.2 = c) : RotatesA i a c s :=
  ⟨_, h, ha, hc ▸ rfl, rotated_changesOnly x s⟩

/-! ### A rotate repeated (R218 to R221)

A rotate moves each bit of a row of `m` bits to the next place, so after `m` of them every bit is back. For RLC and RRC the row
is A; for RAL and RAR it is A with CY as bit 8. -/

/-- If one turn brings bit `k + d` of a row of `m` to place `k`, then `n` turns bring bit `k + n * d` there. -/
theorem bit_iterate {σ : Type} {bit : σ → Nat → Bool} {f : σ → σ} {m d : Nat}
    (hstep : ∀ x k, k < m → bit (f x) k = bit x ((k + d) % m)) (n : Nat) (x : σ) {k : Nat} (hk : k < m) :
    bit (f^[n] x) k = bit x ((k + n * d) % m) := by
  induction n generalizing x with
  | zero => rw [Function.iterate_zero_apply, Nat.zero_mul, Nat.add_zero, Nat.mod_eq_of_lt hk]
  | succ n ih =>
    rw [Function.iterate_succ_apply, ih, hstep x _ (Nat.mod_lt _ (by omega)), Nat.mod_add_mod, Nat.add_assoc,
      Nat.succ_mul]

theorem bit_iterate_full_turn {σ : Type} {bit : σ → Nat → Bool} {f : σ → σ} {m d : Nat}
    (hstep : ∀ x k, k < m → bit (f x) k = bit x ((k + d) % m)) (x : σ) {k : Nat} (hk : k < m) :
    bit (f^[m] x) k = bit x k := by
  rw [bit_iterate hstep m x hk, Nat.add_mul_mod_self_left, Nat.mod_eq_of_lt hk]

/-- Bit `k` of the row of nine that RAL and RAR turn. -/
def carryBit (x : Byte × Bool) (k : Nat) : Bool := if k = 8 then x.2 else x.1.getLsbD k

theorem eq_of_carryBit {x y : Byte × Bool} (h : ∀ k, k < 9 → carryBit x k = carryBit y k) : x = y := by
  have hcarry : x.2 = y.2 := h 8 (by omega)
  refine Prod.ext (BitVec.eq_of_getLsbD_eq fun k hk => ?_) hcarry
  simpa only [carryBit, if_neg hk.ne] using h k (by omega)

/-- Bit 7 comes to place 0, every other bit one place up: 7 places back in a row of eight. -/
theorem rotateLeft_bit (x : Byte) {k : Nat} (hk : k < 8) : (rotateLeft x).1.getLsbD k = x.getLsbD ((k + 7) % 8) := by
  simp only [rotateLeft, BitVec.getLsbD_append, BitVec.getLsbD_extractLsb']
  interval_cases k <;> rfl

/-- Bit 0 comes to place 7, every other bit one place down. -/
theorem rotateRight_bit (x : Byte) {k : Nat} (hk : k < 8) : (rotateRight x).1.getLsbD k = x.getLsbD ((k + 1) % 8) := by
  simp only [rotateRight, BitVec.getLsbD_append, BitVec.getLsbD_extractLsb']
  interval_cases k <;> rfl

/-- CY is bit 8: it comes to place 0, and bit 7 to CY. -/
theorem rotateLeftThrough_carryBit (x : Byte × Bool) {k : Nat} (hk : k < 9) :
    carryBit (rotateLeftThrough x.1 x.2) k = carryBit x ((k + 8) % 9) := by
  simp only [carryBit, rotateLeftThrough, BitVec.getLsbD_append, BitVec.getLsbD_extractLsb', BitVec.getLsbD_ofBool]
  interval_cases k <;> simp

/-- CY comes to place 7, and bit 0 to CY. -/
theorem rotateRightThrough_carryBit (x : Byte × Bool) {k : Nat} (hk : k < 9) :
    carryBit (rotateRightThrough x.1 x.2) k = carryBit x ((k + 1) % 9) := by
  simp only [carryBit, rotateRightThrough, BitVec.getLsbD_append, BitVec.getLsbD_extractLsb', BitVec.getLsbD_ofBool]
  interval_cases k <;> simp

theorem rotated_self (s : State) : s.rotated (s.reg .a, s.flags.cy) = s := rfl

theorem rotated_rotated (x y : Byte × Bool) (s : State) : (s.rotated x).rotated y = s.rotated y := rfl

/-- Repeating a rotate `f` of A and CY repeats `f` on the two. -/
theorem execAll_replicate_rotated {i : Instr} {f : Byte × Bool → Byte × Bool}
    (h : ∀ s, exec i s = .next (s.rotated (f (s.reg .a, s.flags.cy)))) (n : Nat) (s : State) :
    execAll (List.replicate n i) s = .next (s.rotated (f^[n] (s.reg .a, s.flags.cy))) := by
  induction n generalizing s with
  | zero => exact congrArg _ (rotated_self s).symm
  | succ n ih =>
    rw [List.replicate_succ, execAll, h, Function.iterate_succ_apply]
    exact (ih _).trans (congrArg _ (rotated_rotated _ _ s))

theorem eight_turns_restore_a {i : Instr} {f : Byte → Byte × Bool} {d : Nat}
    (h : ∀ s, exec i s = .next (s.rotated (f (s.reg .a))))
    (hstep : ∀ x k, k < 8 → (f x).1.getLsbD k = x.getLsbD ((k + d) % 8)) (s : State) :
    ∃ t, execAll (List.replicate 8 i) s = .next t ∧ t.reg .a = s.reg .a :=
  ⟨_, execAll_replicate_rotated (f := fun x => f x.1) h 8 s, BitVec.eq_of_getLsbD_eq fun _ hk =>
    bit_iterate_full_turn (bit := fun x => x.1.getLsbD) (fun x => hstep x.1) (s.reg .a, s.flags.cy) hk⟩

theorem nine_turns_restore_state {i : Instr} {f : Byte → Bool → Byte × Bool} {d : Nat}
    (h : ∀ s, exec i s = .next (s.rotated (f (s.reg .a) s.flags.cy)))
    (hstep : ∀ (x : Byte × Bool) k, k < 9 → carryBit (f x.1 x.2) k = carryBit x ((k + d) % 9)) (s : State) :
    execAll (List.replicate 9 i) s = .next s := by
  rw [execAll_replicate_rotated (f := fun x => f x.1 x.2) h 9 s]
  have hturn : (fun x : Byte × Bool => f x.1 x.2)^[9] (s.reg .a, s.flags.cy) = (s.reg .a, s.flags.cy) :=
    eq_of_carryBit fun _ hk => bit_iterate_full_turn hstep _ hk
  rw [hturn, rotated_self]

/-! ### The statements -/

/-- Settles O57. -/
theorem complementAndCarry : Obligations.ComplementAndCarry :=
  fun s => ⟨⟨rfl, rfl, rfl⟩,
    ⟨_, rfl, (congrArg BitVec.toNat (State.setReg_reg_same .a _ s)).trans BitVec.toNat_not,
      exec_changesOnly (i := .cma) rfl⟩,
    ⟨_, rfl, rfl, exec_changesOnly (i := .cmc) rfl⟩, ⟨_, rfl, rfl, exec_changesOnly (i := .stc) rfl⟩⟩

/-- Settles O44: each has the flags of `sub8` of A and its operand. -/
theorem comparisonsWriteFlagsOnly : Obligations.ComparisonsWriteFlagsOnly := by
  intro o v s
  rw [← State.readOperand_fst]
  exact ⟨comparesWithA_of_exec rfl, comparesWithA_of_exec (o := .reg .a) rfl⟩

/-- Settles O54: three operations, each with an operand and with an immediate byte. -/
theorem logicCombinesBits : Obligations.LogicCombinesBits := by
  intro o v s
  rw [← State.readOperand_fst]
  exact ⟨combinesWithA_of_exec rfl fun _ => BitVec.getLsbD_and,
    combinesWithA_of_exec (o := .reg .a) rfl fun _ => BitVec.getLsbD_and,
    combinesWithA_of_exec rfl fun _ => BitVec.getLsbD_xor,
    combinesWithA_of_exec (o := .reg .a) rfl fun _ => BitVec.getLsbD_xor,
    combinesWithA_of_exec rfl fun _ => BitVec.getLsbD_or,
    combinesWithA_of_exec (o := .reg .a) rfl fun _ => BitVec.getLsbD_or⟩

/-- Settles O55: the number each rotate answers, and the bit that leaves. -/
theorem rotates : Obligations.Rotates := by
  rintro s _ rfl
  exact ⟨⟨rfl, rfl, rfl, rfl⟩,
    rotatesA_of_exec rfl (rotateLeft_toNat _) (getLsbD_seven _),
    rotatesA_of_exec rfl (rotateRight_toNat _) (getLsbD_zero _),
    rotatesA_of_exec rfl (rotateLeftThrough_toNat _ _) (getLsbD_seven _),
    rotatesA_of_exec rfl (rotateRightThrough_toNat _ _) (getLsbD_zero _)⟩

/-- Settles O56: eight turns of a row of eight bits, nine of a row of nine. -/
theorem rotatesAreCyclic : Obligations.RotatesAreCyclic :=
  fun s => ⟨eight_turns_restore_a (fun _ => rfl) (fun x _ => rotateLeft_bit x) s,
    eight_turns_restore_a (fun _ => rfl) (fun x _ => rotateRight_bit x) s,
    nine_turns_restore_state (fun _ => rfl) (fun x _ => rotateLeftThrough_carryBit x) s,
    nine_turns_restore_state (fun _ => rfl) (fun x _ => rotateRightThrough_carryBit x) s⟩

end Sys2Proof.Proofs
end

section
/-! PROOF. Control (44_control.md): the wait in the halt state, what can be pending while no maskable source is accepted, the
actions of SIM, and the statements. -/

namespace Sys2Proof.Proofs

open Sys2Proof Sys2Proof.Machine Sys2Proof.Safety

/-! ### The boundary (60_exceptions.md R263, R265, R269) -/

/-- A halted machine with nothing to take waits: its inputs are presented and no more (60_exceptions.md R269). -/
theorem step_waits {s : State} (hhalted : s.ctl.halted = true) (hreset : s.presentInputs.env.pins.reset = false)
    (hpending : s.presentInputs.pending = none) : step s = .next s.presentInputs := by
  unfold step State.machineStep State.boundaryStep
  rw [hreset, hpending, State.presentInputs_ctl]
  simp [hhalted]

/-- Every source but TRAP needs IE = 1 and EI_SHADOW = 0 (60_exceptions.md R263). -/
theorem eligible_of_not_accepting {x : Source} {s : State} (h : s.accepting = false) (hx : x ≠ .internal .trap) :
    s.eligible x = false := by
  cases x with
  | intr => simp [State.eligible, h]
  | internal y =>
    cases y with
    | trap => exact absurd rfl hx
    | rst75 | rst65 | rst55 => simp [State.eligible, h]

theorem pending_of_not_accepting {s : State} (h : s.accepting = false) :
    s.pending = none ∨ s.pending = some (.internal .trap) := by
  cases hp : s.pending with
  | none => exact .inl rfl
  | some x =>
    have hx : s.eligible x = true := List.find?_some hp
    by_cases htrap : x = .internal .trap
    · exact .inr (congrArg some htrap)
    · rw [eligible_of_not_accepting h htrap] at hx
      cases hx

/-! ### EI and SIM (44_control.md R243, R245) -/

/-- EI, and the EI_SHADOW that R266 sets after it. -/
theorem runInstr_ei (s : State) :
    s.runInstr .ei = .next { s with ctl := { s.ctl with ie := true, eiShadow := true } } := rfl

/-- A load of SOD is the one event of SIM (log 14). -/
theorem applySimImage_events (v : Byte) (s : State) : (s.applySimImage v).events =
    if v.getLsbD 6 then s.events ++ [.serialOut (v.getLsbD 7)] else s.events := by
  rw [(applySimImage_records v s).events]
  split <;> simp [visible]

theorem applySimImage_changesOnly (v : Byte) (s : State) : ChangesOnly [] [.ctl, .events] s (s.applySimImage v) :=
  changesOnly_of (fun r _ => State.applySimImage_reg v s r) (.inr (State.applySimImage_sp v s))
    (.inr (State.applySimImage_pc v s)) (.inr (State.applySimImage_flags v s)) (.inl (by simp))
    (.inr (State.applySimImage_mem v s)) (.inl (by simp)) (State.applySimImage_env v s)

/-! ### The statements -/

/-- Settles O6: the step is the presenting of the inputs, which changes latches alone. -/
theorem haltWaits : Obligations.HaltWaits :=
  fun s hhalted hreset hpending => ⟨s.presentInputs, step_waits hhalted hreset hpending, State.presentInputs_regs s,
    State.presentInputs_sp s, State.presentInputs_pc s, State.presentInputs_flags s, State.presentInputs_mem s,
    State.presentInputs_events s, State.presentInputs_ctl s⟩

/-- Settles O10: EI leaves IE and EI_SHADOW set, the next inputs change neither, and under the shadow nothing is accepted. -/
theorem eiDelaysRecognition : Obligations.EiDelaysRecognition := by
  intro s t hrun hei h
  rw [step_runsInstruction hrun, hei, runInstr_ei] at h
  cases h
  exact ⟨rfl, pending_of_not_accepting rfl⟩

/-- Settles O59, by the eight bits of the byte RIM makes. -/
theorem rimReadsImage : Obligations.RimReadsImage := by
  intro s
  have hbit := byteOfBits_getLsbD s.serialIn s.ctl.i75 s.env.pins.irq.r65Level s.env.pins.irq.r55Level
    (if s.ctl.trapRimArmed then s.ctl.trapIeSaved else s.ctl.ie) s.ctl.m75 s.ctl.m65 s.ctl.m55
  exact ⟨_, rfl, hbit 7, hbit 6, hbit 5, hbit 4, exec_rim_bit3 rfl, hbit 2, hbit 1, hbit 0, exec_rim_ctl rfl,
    exec_changesOnly (i := .rim) rfl⟩

/-- Settles O60: the actions on the control state, the event, and the frame. -/
theorem simWritesMasksLatchAndSerialOut : Obligations.SimWritesMasksLatchAndSerialOut :=
  fun s => ⟨s.applySimImage (s.reg .a), rfl, applySimImage_ctl _ s, applySimImage_events _ s,
    applySimImage_changesOnly _ s⟩

/-- Settles O58: the next state of each is its meaning, written out. -/
theorem nopHltDiEi : Obligations.NopHltDiEi := fun _ => ⟨rfl, rfl, rfl, rfl⟩

end Sys2Proof.Proofs
end

section
/-! PROOF. Interrupts (60_exceptions.md): what a boundary can decide, which source is taken, what taking one leaves of the state, what
the RST 7.5 latch keeps, what a step adds to the environment's side, and which steps stop. -/

namespace Sys2Proof.Proofs

open Sys2Proof Sys2Proof.Machine Sys2Proof.Safety

/-! ### What a boundary decides (60_exceptions.md R263, R265, R266) -/

/-- The five things a step can be, whatever it answers: a reset event, the entry of an internal source, the acknowledge of INTR, a
wait in the halt state, an instruction. -/
theorem boundary_cases (s : State) :
    s.presentInputs.env.pins.reset = true ∨
    (s.presentInputs.env.pins.reset = false ∧ ∃ x, s.presentInputs.pending = some (.internal x)) ∨
    (s.presentInputs.env.pins.reset = false ∧ s.presentInputs.pending = some .intr) ∨
    (s.presentInputs.env.pins.reset = false ∧ s.presentInputs.pending = none ∧ s.ctl.halted = true) ∨
    RunsInstruction s := by
  cases hreset : s.presentInputs.env.pins.reset with
  | true => exact .inl rfl
  | false =>
    cases hpending : s.presentInputs.pending with
    | some x =>
      cases x with
      | internal y => exact .inr (.inl ⟨rfl, y, rfl⟩)
      | intr => exact .inr (.inr (.inl ⟨rfl, rfl⟩))
    | none =>
      cases hhalted : s.ctl.halted with
      | true => exact .inr (.inr (.inr (.inl ⟨rfl, rfl, rfl⟩)))
      | false => exact .inr (.inr (.inr (.inr ⟨hreset, hpending, hhalted⟩)))

theorem step_resets {s : State} (hreset : s.presentInputs.env.pins.reset = true) :
    step s = .next s.presentInputs.resetEvent := by
  unfold step State.machineStep State.boundaryStep
  rw [if_pos hreset]

/-- A step at whose boundary INTR comes first is the acknowledge of INTR (60_exceptions.md R266, R268). -/
theorem step_takesIntr {s : State} (hreset : s.presentInputs.env.pins.reset = false)
    (hpending : s.presentInputs.pending = some .intr) :
    step s = s.presentInputs.takeIntr s.presentInputs.intaBytes := by
  unfold step State.machineStep State.boundaryStep
  rw [hreset, hpending]
  rfl

theorem accepting_iff (s : State) : s.accepting = true ↔ ¬(s.ctl.ie = false ∨ s.ctl.eiShadow = true) := by
  simp [State.accepting]

theorem find?_cons_eq_ite {α : Type} (p : α → Bool) (a : α) (rest : List α) :
    (a :: rest).find? p = if p a then some a else rest.find? p := by
  rw [List.find?_cons]
  cases p a <;> rfl

/-- The search of R265 as a chain of conditions. -/
theorem pending_eq (s : State) : s.pending =
    if s.eligible (.internal .trap) then some (.internal .trap)
    else if s.eligible (.internal .rst75) then some (.internal .rst75)
    else if s.eligible (.internal .rst65) then some (.internal .rst65)
    else if s.eligible (.internal .rst55) then some (.internal .rst55)
    else if s.eligible .intr then some .intr else none := by
  simp only [State.pending, sourcesByPriority, find?_cons_eq_ite, List.find?_nil]

/-- RST 7.5 is not taken while it is masked, IE is 0, or the EI shadow lasts (60_exceptions.md R263). -/
theorem pending_ne_rst75_of_blocked {s : State}
    (hblocked : s.ctl.m75 = true ∨ s.ctl.ie = false ∨ s.ctl.eiShadow = true) :
    s.pending ≠ some (.internal .rst75) := by
  intro hpending
  have heligible : s.eligible (.internal .rst75) = true := State.pending_eligible hpending
  simp only [State.eligible, State.accepting, Bool.and_eq_true, Bool.not_eq_true'] at heligible
  obtain ⟨⟨-, hm75⟩, hie, hshadow⟩ := heligible
  simp [hm75, hie, hshadow] at hblocked

/-! ### Taking an interrupt (60_exceptions.md R267, R268)

The state `u` that enters may differ from `s`, the state of the boundary, in control state and events: a latch has been cleared, or the
acknowledge recorded. -/

section

variable {s u : State}

theorem enterInterrupt_memoryAfter (target : Word) (hsp : u.sp = s.sp) (hpc : u.pc = s.pc) (hmem : u.mem = s.mem)
    (henv : u.env = s.env) :
    MemoryAfter [(s.sp - 2, loByte s.pc), (s.sp - 1, hiByte s.pc)] s (u.enterInterrupt target) := by
  refine push16_memoryAfter s.pc ?_
  rw [← hpc]
  exact State.push16_mem_congr (t := { u with ctl := { u.ctl with halted := false, ie := false, eiShadow := false } })
    hsp hmem henv u.pc

theorem enterInterrupt_changesOnly (target : Word) (hregs : u.regs = s.regs) (hflags : u.flags = s.flags)
    (henv : u.env = s.env) :
    ChangesOnly [] [.pc, .sp, .memory, .ctl, .events] s (u.enterInterrupt target) :=
  changesOnly_of (fun r _ => State.reg_congr ((State.enterInterrupt_regs target u).trans hregs) r) (.inl (by simp))
    (.inl (by simp)) (.inr ((State.enterInterrupt_flags target u).trans hflags)) (.inl (by simp)) (.inl (by simp))
    (.inl (by simp)) ((State.enterInterrupt_env target u).trans henv)

end

/-- What entry does to the latches of its source: TRAP saves IE, arms RIM and clears TRAP_FF, RST 7.5 clears I7_5 (R267). -/
theorem acknowledge_ctl (x : Internal) (s : State) : (s.acknowledge x).ctl =
    { s.ctl with
      i75 := s.ctl.i75 && decide (x ≠ .rst75)
      trapFF := s.ctl.trapFF && decide (x ≠ .trap)
      trapIeSaved := if x = .trap then s.ctl.ie else s.ctl.trapIeSaved
      trapRimArmed := s.ctl.trapRimArmed || decide (x = .trap) } := by
  cases x <;> simp [State.acknowledge]

/-- Where the stack is in no device, the acknowledge is the one event of an INTR entry (20_memory.md R58; log 14). -/
theorem takeIntr_events {s : State} (hhi : s.kindAt (s.sp - 1) ≠ .device) (hlo : s.kindAt (s.sp - 2) ≠ .device)
    (bytes : IntaBytes) (target : Word) :
    ((s.note (.intAck bytes)).enterInterrupt target).events = s.events ++ [.intAck bytes] :=
  State.push16_events
    (s := { s.note (.intAck bytes) with ctl := { s.ctl with halted := false, ie := false, eiShadow := false } })
    hhi hlo s.pc

/-! ### What is inserted at an acknowledge of INTR (60_exceptions.md R262, R268) -/

/-- The byte of RST n is no CALL, and its middle field is n (30_encoding.md R84). -/
theorem rstByte_fields : ∀ n : BitVec 3,
    0xC7#8 + 8#8 * n.setWidth 8 ≠ 0xCD#8 ∧ (0xC7#8 + 8#8 * n.setWidth 8) &&& 0xC7#8 = 0xC7#8 ∧
    (0xC7#8 + 8#8 * n.setWidth 8).extractLsb' 3 3 = n := by
  decide

/-- A byte with the fixed bits of RST is the byte of some RST n. -/
theorem eq_rstByte_of_and : ∀ op : Byte, op &&& 0xC7#8 = 0xC7#8 →
    op = 0xC7#8 + 8#8 * (op.extractLsb' 3 3).setWidth 8 := by
  decide

theorem suppliedTarget_rst {b : IntaBytes} {n : BitVec 3} (h : b.byte1 = 0xC7#8 + 8#8 * n.setWidth 8) :
    suppliedTarget b = some (8#16 * n.setWidth 16) := by
  obtain ⟨hcall, hbits, hfield⟩ := rstByte_fields n
  rw [suppliedTarget_eq, h, if_neg hcall, if_pos hbits, hfield, restartAddress, BitVec.mul_comm]

theorem suppliedTarget_call {b : IntaBytes} (h : b.byte1 = 0xCD#8) :
    suppliedTarget b = some (wordOf b.byte3 b.byte2) := by
  rw [suppliedTarget_eq, if_pos h]

theorem suppliedTarget_eq_none {b : IntaBytes} (hrst : ∀ n : BitVec 3, b.byte1 ≠ 0xC7#8 + 8#8 * n.setWidth 8)
    (hcall : b.byte1 ≠ 0xCD#8) : suppliedTarget b = none := by
  rw [suppliedTarget_eq, if_neg hcall, if_neg fun hbits => hrst _ (eq_rstByte_of_and _ hbits)]

/-- Without a target the inserted bytes decode to neither instruction that has one. -/
theorem decodeInstr_of_suppliedTarget_none {b : IntaBytes} (h : suppliedTarget b = none) (n : BitVec 3) (a : Word) :
    decodeInstr b.byte1 b.byte2 b.byte3 ≠ .rst n ∧ decodeInstr b.byte1 b.byte2 b.byte3 ≠ .call a := by
  unfold suppliedTarget at h
  constructor <;> intro hdecode <;> rw [hdecode] at h <;> cases h

theorem takeIntr_of_some {b : IntaBytes} {target : Word} (h : suppliedTarget b = some target) (s : State) :
    s.takeIntr b = .next ((s.note (.intAck b)).enterInterrupt target) := by
  unfold State.takeIntr
  rw [h]

theorem takeIntr_of_none {b : IntaBytes} (h : suppliedTarget b = none) (s : State) :
    s.takeIntr b = .refused (.intaInstruction b) := by
  unfold State.takeIntr
  rw [h]

/-! ### The return from an interrupt (60_exceptions.md R270) -/

theorem pop16_fst_withPc (w : Word) (u : State) : (State.pop16 { u with pc := w }).1 = u.pop16.1 := by
  simp only [State.pop16_fst_eq, State.afterRead_withPc, State.byteAt_withPc]

/-- A return on the stack a call left in RAM goes back to the PC that was pushed. -/
theorem popPc_callTo_pc {s : State} (hhi : s.kindAt (s.sp - 1) = .ram) (hlo : s.kindAt (s.sp - 2) = .ram)
    (target : Word) : (s.callTo target).popPc.pc = s.pc :=
  (pop16_fst_withPc target (s.push16 s.pc)).trans (pop16_push16_fst hhi hlo s.pc)

theorem popPc_enterInterrupt_pc {s : State} (hhi : s.kindAt (s.sp - 1) = .ram) (hlo : s.kindAt (s.sp - 2) = .ram)
    (target : Word) : (s.enterInterrupt target).popPc.pc = s.pc :=
  popPc_callTo_pc (s := { s with ctl := { s.ctl with halted := false, ie := false, eiShadow := false } }) hhi hlo target

/-! ### The latch of RST 7.5 (10_state.md R30) -/

/-- The only instruction that clears I7_5 is SIM with bit 4 of A set (44_control.md R245). -/
theorem exec_i75 {i : Instr} {s t : State} (h : exec i s = .next t)
    (hsim : ¬(i = .sim ∧ (s.reg .a).getLsbD 4 = true)) : t.ctl.i75 = s.ctl.i75 := by
  cases i with
  | hlt => rw [exec_hlt_ctl h]
  | di => rw [exec_di_ctl h]
  | ei => rw [exec_ei_ctl h]
  | rim => rw [exec_rim_ctl h]
  | sim =>
    have hbit : ¬(s.reg .a).getLsbD 4 = true := fun hb => hsim ⟨rfl, hb⟩
    rw [exec_sim_ctl h, applySimImage_ctl]
    exact if_neg hbit
  | _ => rw [exec_ctl h (by simp)]

/-! ### What a step records (20_memory.md R58) -/

theorem foldl_afterRead_records (reads : List Word) (s : State) :
    ∃ es, Records s es (reads.foldl (fun u a => u.afterRead a) s) := by
  induction reads generalizing s with
  | nil => exact ⟨[], .of_nil rfl rfl⟩
  | cons a rest ih =>
    obtain ⟨es, hes⟩ := ih (s.afterRead a)
    exact ⟨_, (afterRead_records a s).trans hes⟩

theorem fetchInstr_records (s : State) : ∃ es, Records s es s.fetchInstr.2 := by
  obtain ⟨es, hes⟩ := foldl_afterRead_records ([s.pc, s.pc + 1, s.pc + 2].take (instrLength (s.byteAt s.pc))) s
  rw [fetchInstr_snd]
  exact ⟨es, hes.congr_right rfl rfl⟩

/-- Once the inputs are presented a step only adds to the record, and leaves the rest of the environment's side. -/
theorem step_records {s t : State} (h : step s = .next t) : ∃ es, Records s.presentInputs es t := by
  rcases step_cases h with ⟨-, rfl⟩ | ⟨-, x, -, rfl⟩ | ⟨-, -, target, -, rfl⟩ | ⟨-, -, -, rfl⟩ | ⟨-, u, hu, rfl⟩
  · exact ⟨[], .of_nil rfl rfl⟩
  · exact ⟨_, takeInternal_records x s.presentInputs⟩
  · exact ⟨_, takeIntr_records _ target s.presentInputs⟩
  · exact ⟨[], .of_nil rfl rfl⟩
  · obtain ⟨es, hes⟩ := fetchInstr_records s.presentInputs
    exact ⟨_, (hes.trans (exec_records hu)).congr_right rfl rfl⟩

/-! ### Which steps stop (60_exceptions.md R260, R262) -/

/-- The ten bytes no instruction is assigned to (30_encoding.md R88). -/
def unassignedBytes : List Byte :=
  [0x08#8, 0x10#8, 0x18#8, 0x28#8, 0x38#8, 0xCB#8, 0xD9#8, 0xDD#8, 0xED#8, 0xFD#8]

/-- Only the rows of the unassigned bytes fault, each with its own byte. -/
theorem exec_fault {i : Instr} {s : State} {f : Fault} (h : exec i s = .fault f) :
    ∃ op ∈ unassignedBytes, encode i = [op] ∧ f = .undefinedOpcode op (s.pc - 1) := by
  cases i with
  | undefined08 | undefined10 | undefined18 | undefined28 | undefined38 | undefinedCB | undefinedD9 | undefinedDD
  | undefinedED | undefinedFD =>
    cases h
    exact ⟨_, by decide, rfl, rfl⟩
  | _ => cases h

/-- Every instruction has a meaning: none is refused. -/
theorem exec_ne_refused (i : Instr) (s : State) (r : Refusal) : exec i s ≠ .refused r := by
  cases i <;> exact nofun

theorem runInstr_eq_fault {i : Instr} {s : State} {f : Fault} (h : s.runInstr i = .fault f) : exec i s = .fault f := by
  unfold State.runInstr at h
  split at h
  · cases h
  · rename_i hexec; rw [hexec, h]
  · cases h

theorem runInstr_ne_refused (i : Instr) (s : State) (r : Refusal) : s.runInstr i ≠ .refused r := by
  unfold State.runInstr
  split
  · exact nofun
  · exact nofun
  · rename_i hexec; exact absurd hexec (exec_ne_refused i s _)

theorem takeIntr_ne_fault (b : IntaBytes) (s : State) (f : Fault) : s.takeIntr b ≠ .fault f := by
  cases h : suppliedTarget b with
  | some target => rw [takeIntr_of_some h]; exact nofun
  | none => rw [takeIntr_of_none h]; exact nofun

/-- A step that faults runs an instruction that faults. -/
theorem step_eq_fault {s : State} {f : Fault} (h : step s = .fault f) :
    RunsInstruction s ∧ exec s.presentInputs.fetchInstr.1 s.presentInputs.fetchInstr.2 = .fault f := by
  rcases boundary_cases s with hr | ⟨hr, x, hp⟩ | ⟨hr, hp⟩ | ⟨hr, hp, hh⟩ | hrun
  · cases (step_resets hr).symm.trans h
  · cases (step_takesInternal hr hp).symm.trans h
  · exact absurd ((step_takesIntr hr hp).symm.trans h) (takeIntr_ne_fault _ _ f)
  · cases (step_waits hh hr hp).symm.trans h
  · exact ⟨hrun, runInstr_eq_fault ((step_runsInstruction hrun).symm.trans h)⟩

/-- A step that is refused is an acknowledge of INTR that is. -/
theorem step_eq_refused {s : State} {r : Refusal} (h : step s = .refused r) :
    s.presentInputs.pending = some .intr ∧ s.presentInputs.takeIntr s.presentInputs.intaBytes = .refused r := by
  rcases boundary_cases s with hr | ⟨hr, x, hp⟩ | ⟨hr, hp⟩ | ⟨hr, hp, hh⟩ | hrun
  · cases (step_resets hr).symm.trans h
  · cases (step_takesInternal hr hp).symm.trans h
  · exact ⟨hp, (step_takesIntr hr hp).symm.trans h⟩
  · cases (step_waits hh hr hp).symm.trans h
  · exact absurd ((step_runsInstruction hrun).symm.trans h) (runInstr_ne_refused _ _ r)

/-- An instruction of one byte is the byte read at PC, and the fetch ends one past it. -/
theorem fetchInstr_of_encode_singleton {s : State} {op : Byte} (h : encode s.fetchInstr.1 = [op]) :
    s.byteAt s.pc = op ∧ s.fetchInstr.2.pc = s.pc + 1 := by
  have hlen : instrLength (s.byteAt s.pc) = 1 := by rw [← length_encode_fetchInstr, h]; rfl
  rw [encode_fetchInstr, hlen] at h
  rw [fetchInstr_snd, hlen]
  exact ⟨(List.cons.inj h).1, rfl⟩

/-! ### The statements -/

/-- Settles O7: TRAP apart, every source needs what R263 asks of all maskable ones, so one condition covers the four. -/
theorem pendingFollowsPriority : Obligations.PendingFollowsPriority := by
  intro s
  rw [pending_eq]
  by_cases haccepting : s.accepting = true
  · rw [if_neg ((accepting_iff s).1 haccepting)]
    simp [State.eligible, haccepting]
  · rw [if_pos (not_not.1 (mt (accepting_iff s).2 haccepting))]
    simp [State.eligible, haccepting]

/-- Settles O8: the entry of R267 at the state with its inputs presented. -/
theorem internalInterruptEntry : Obligations.InternalInterruptEntry := by
  intro s x hreset hpending
  refine ⟨_, step_takesInternal hreset hpending, by cases x <;> rfl, ?_, ?_, ?_, ?_, ?_⟩
  · simp [State.takeInternal]
  · exact enterInterrupt_memoryAfter (s := s.presentInputs) x.vector (by simp) (by simp) (by simp) (by simp)
  · rw [takeInternal_ctl, acknowledge_ctl, State.presentInputs_ctl]
  · exact enterInterrupt_changesOnly x.vector (by simp) (by simp) (by simp)
  · exact (takeInternal_records x s.presentInputs).quietAccesses rfl

/-- Settles O9, by what is inserted: RST n, CALL, or neither. -/
theorem intrEntry : Obligations.IntrEntry := by
  intro s hreset hpending b entered
  have hstep : step s = s.presentInputs.takeIntr b := step_takesIntr hreset hpending
  have henters {target : Word} (htarget : suppliedTarget b = some target) : entered target := by
    refine ⟨_, hstep.trans (takeIntr_of_some htarget s.presentInputs), rfl, ?_, ?_, ?_, ?_, ?_⟩
    · simp
    · exact enterInterrupt_memoryAfter (s := s.presentInputs) target rfl rfl rfl rfl
    · exact State.enterInterrupt_ctl target _
    · exact enterInterrupt_changesOnly target rfl rfl rfl
    · exact fun hhi hlo => takeIntr_events (s := s.presentInputs) hhi hlo b target
  exact ⟨fun _ hbyte => henters (suppliedTarget_rst hbyte), fun hbyte => henters (suppliedTarget_call hbyte),
    fun hrst hcall => hstep.trans (takeIntr_of_none (suppliedTarget_eq_none hrst hcall) s.presentInputs)⟩

/-- Settles O12: the presented edge sets the latch; a blocked RST 7.5 is not taken, and of the instructions only SIM clears it. -/
theorem blockedEdgeIsRemembered : Obligations.BlockedEdgeIsRemembered := by
  intro s t h hreset hrise hblocked hsim
  have hset : s.presentInputs.ctl.i75 = true := by simp [hrise]
  rcases step_cases h with ⟨hr, -⟩ | ⟨-, x, hp, rfl⟩ | ⟨-, -, target, -, rfl⟩ | ⟨-, -, -, rfl⟩ | ⟨hrun, u, hu, rfl⟩
  · cases hreset.symm.trans hr
  · have hx : x ≠ .rst75 := by
      rintro rfl
      exact pending_ne_rst75_of_blocked (s := s.presentInputs) hblocked hp
    rw [takeInternal_ctl, acknowledge_ctl, hset]
    simp [hx]
  · rw [State.enterInterrupt_ctl]
    exact hset
  · exact hset
  · have hkept : u.ctl.i75 = s.presentInputs.fetchInstr.2.ctl.i75 := by
      refine exec_i75 hu fun ⟨hi, hbit⟩ => hsim ⟨hrun, hi, ?_⟩
      rwa [State.reg_congr (State.fetchInstr_regs s.presentInputs)] at hbit
    rw [State.closeShadow_ctl]
    exact hkept.trans (by rw [State.fetchInstr_ctl, hset])

/-- Settles O14: RET pops what the entry pushed. -/
theorem retUndoesInterruptEntry : Obligations.RetUndoesInterruptEntry := by
  intro s t x hreset hpending hhi hlo h
  obtain rfl : s.presentInputs.takeInternal x = t :=
    Host.Outcome.next.inj ((step_takesInternal hreset hpending).symm.trans h)
  refine ⟨_, rfl, ?_, ?_, ?_, ?_, ?_⟩
  · have hpc := popPc_enterInterrupt_pc (s := s.presentInputs.acknowledge x) (by simpa [State.kindAt] using hhi)
      (by simpa [State.kindAt] using hlo) x.vector
    exact hpc.trans (by simp)
  · simp [State.takeInternal]
  · simp [State.takeInternal]
  · simp [State.takeInternal]
  · simp

/-- Settles O15: the fields are set as the inputs are presented, and what follows only records. -/
theorem stepAdvancesEnvironment : Obligations.StepAdvancesEnvironment := by
  intro s t h
  obtain ⟨es, hrecords⟩ := step_records h
  rw [hrecords.env]
  exact ⟨rfl, rfl, rfl, rfl, _, hrecords.events⟩

/-- Settles O17: the instruction run is the row of an unassigned byte, which stood at PC. -/
theorem faultsOnlyFromUndefinedBytes : Obligations.FaultsOnlyFromUndefinedBytes := by
  intro s f h
  obtain ⟨hrun, hexec⟩ := step_eq_fault h
  obtain ⟨op, hop, hencode, rfl⟩ := exec_fault hexec
  obtain ⟨hbyte, hpc⟩ := fetchInstr_of_encode_singleton hencode
  rw [State.presentInputs_pc] at hbyte hpc
  rw [hbyte, hpc, BitVec.add_sub_cancel]
  exact ⟨hrun, rfl, hop⟩

/-- Settles O18: of all that a step can be only the acknowledge of INTR is refused, and only without a target. -/
theorem refusalsOnlyFromInsertedInstructions : Obligations.RefusalsOnlyFromInsertedInstructions := by
  intro s r h
  obtain ⟨hpending, hrefused⟩ := step_eq_refused h
  cases htarget : suppliedTarget s.presentInputs.intaBytes with
  | some target => cases (takeIntr_of_some htarget _).symm.trans hrefused
  | none =>
    rw [takeIntr_of_none htarget] at hrefused
    exact ⟨hpending, (Host.Outcome.refused.inj hrefused).symm, decodeInstr_of_suppliedTarget_none htarget⟩

end Sys2Proof.Proofs
end

section
/-! PROOF. The reset event of 70_reset_and_hazards.md R300. -/

namespace Sys2Proof.Proofs

open Sys2Proof Sys2Proof.Machine

/-- Presenting the inputs may latch TRAP and RST 7.5 edges, but never touches the saved IE (10_state.md R34). -/
theorem presentInputs_trapIeSaved (s : State) : s.presentInputs.ctl.trapIeSaved = s.ctl.trapIeSaved := by
  rw [State.presentInputs_ctl]

/-- Settles O22: the step is the reset event at the presented inputs, and presenting them changes nothing of what the event keeps
but the environment. -/
theorem resetEvent : Obligations.ResetEvent := by
  intro s hreset
  refine ⟨s.presentInputs.resetEvent, step_resets hreset, State.resetEvent_pc _, ?ctl, ?mem, ?events, State.resetEvent_env _⟩
  case ctl => rw [resetEvent_ctl, presentInputs_trapIeSaved]
  case mem => rw [State.resetEvent_mem, State.presentInputs_mem]
  case events => rw [State.resetEvent_events, State.presentInputs_events]

end Sys2Proof.Proofs
end
